-- ==== Sys2Proof/Word.lean ====
section
/-! DEFINITION. Word.lean: the bit widths of the CHIP-8 core (00_scope.md R7, R9, R10).
Every value of the instruction set is unsigned; register contents, addresses held in 16-bit registers and the fields of
an instruction word are bit vectors, and memory cells are keyed by plain naturals (R12). -/

namespace Sys2Proof

/-- A byte: a general register, a timer, a memory cell, the immediate `NN` (R7 `V_WIDTH`, `TIMER_WIDTH`; R49). -/
abbrev Byte := BitVec 8

/-- A 16-bit word: an instruction word, `I`, `PC`, a stack entry (R7 `I_WIDTH`, `PC_WIDTH`, `STACK_WIDTH`; R49). -/
abbrev Word := BitVec 16

/-- The 12-bit address operand `NNN` (R49). -/
abbrev Addr12 := BitVec 12

/-- One hexadecimal digit of an instruction word (R9). -/
abbrev Nibble := BitVec 4

/-- A register index `X` or `Y`: one digit, so it always selects one of the sixteen registers (R50). -/
abbrev RegIdx := Nibble

end Sys2Proof
end

