-- ==== Sys2Proof/Syntax.lean ====
section
/-! DEFINITION. Syntax.lean: the 35 instructions of 30_encoding.md R51, one constructor per row of spec/opcode_table.json,
in the table's order. A constructor carries every field of its row, also the digit `Y` of the shifts, which is "decoded but
not used" (R85, R87), so that no bit of a word is lost. -/

namespace Sys2Proof

/-- The instructions of the one dialect in scope (R2, R51). -/
inductive Instr where
  /-- 0000 NOP (R67) -/
  | nop
  /-- 00E0 CLS (R95) -/
  | cls
  /-- 00EE RET (R68) -/
  | ret
  /-- 1NNN JP NNN (R69) -/
  | jp (nnn : Addr12)
  /-- 2NNN CALL NNN (R70) -/
  | call (nnn : Addr12)
  /-- 3XNN SE Vx, NN (R72) -/
  | seByte (x : RegIdx) (nn : Byte)
  /-- 4XNN SNE Vx, NN (R73) -/
  | sneByte (x : RegIdx) (nn : Byte)
  /-- 5XY0 SE Vx, Vy (R74) -/
  | seReg (x y : RegIdx)
  /-- 6XNN LD Vx, NN (R77) -/
  | ldByte (x : RegIdx) (nn : Byte)
  /-- 7XNN ADD Vx, NN (R78) -/
  | addByte (x : RegIdx) (nn : Byte)
  /-- 8XY0 LD Vx, Vy (R79) -/
  | ldReg (x y : RegIdx)
  /-- 8XY1 OR Vx, Vy (R80) -/
  | orReg (x y : RegIdx)
  /-- 8XY2 AND Vx, Vy (R81) -/
  | andReg (x y : RegIdx)
  /-- 8XY3 XOR Vx, Vy (R82) -/
  | xorReg (x y : RegIdx)
  /-- 8XY4 ADD Vx, Vy (R83) -/
  | addReg (x y : RegIdx)
  /-- 8XY5 SUB Vx, Vy (R84) -/
  | subReg (x y : RegIdx)
  /-- 8XY6 SHR Vx (R85); `y` is not used -/
  | shr (x y : RegIdx)
  /-- 8XY7 SUBN Vx, Vy (R86) -/
  | subnReg (x y : RegIdx)
  /-- 8XYE SHL Vx (R87); `y` is not used -/
  | shl (x y : RegIdx)
  /-- 9XY0 SNE Vx, Vy (R75) -/
  | sneReg (x y : RegIdx)
  /-- ANNN LD I, NNN (R89) -/
  | ldI (nnn : Addr12)
  /-- BNNN JP V0, NNN (R71) -/
  | jpV0 (nnn : Addr12)
  /-- CXNN RND Vx, NN (R88) -/
  | rnd (x : RegIdx) (nn : Byte)
  /-- DXYN DRW Vx, Vy, N (R96) -/
  | drw (x y : RegIdx) (n : Nibble)
  /-- EX9E SKP Vx (R97) -/
  | skp (x : RegIdx)
  /-- EXA1 SKNP Vx (R98) -/
  | sknp (x : RegIdx)
  /-- FX07 LD Vx, DT (R100) -/
  | ldVxDt (x : RegIdx)
  /-- FX0A LD Vx, K (R99) -/
  | ldVxK (x : RegIdx)
  /-- FX15 LD DT, Vx (R101) -/
  | ldDtVx (x : RegIdx)
  /-- FX18 LD ST, Vx (R102) -/
  | ldStVx (x : RegIdx)
  /-- FX1E ADD I, Vx (R90) -/
  | addI (x : RegIdx)
  /-- FX29 LD F, Vx (R91) -/
  | ldF (x : RegIdx)
  /-- FX33 LD B, Vx (R92) -/
  | ldB (x : RegIdx)
  /-- FX55 LD [I], Vx (R93) -/
  | storeRegs (x : RegIdx)
  /-- FX65 LD Vx, [I] (R94) -/
  | loadRegs (x : RegIdx)
  deriving DecidableEq, Repr

end Sys2Proof
end

