-- ==== Sys2Proof/WellFormed.lean ====
section
/-! DEFINITION. WellFormed.lean: the opcode map of 30_encoding.md R51 as data, one row (mask and match) per instruction, and
the check that an instruction word is well formed: it matches one of the 35 rows.
The fields of `Instr` are as wide as the fields of the word (R49), so every `Instr` term is a well-formed instruction: "no
decoded register index can be out of range" (R50). What can be ill formed is a word (R53), and that is what is checked. -/

namespace Sys2Proof

/-- One row of the opcode map: the digits the pattern fixes (`mask`) and their values (`value`) (R51). -/
structure OpRow where
  mask : Word
  value : Word
  deriving DecidableEq, Repr

/-- The word's fixed digits are the row's (R51: "A hexadecimal digit in a pattern must match the word"). -/
def OpRow.covers (p : OpRow) (w : Word) : Bool := w &&& p.mask == p.value

/-- The row of the opcode map an instruction stands in (R51). -/
def Instr.row : Instr → OpRow
  | .nop => ⟨0xffff, 0x0000⟩
  | .cls => ⟨0xffff, 0x00e0⟩
  | .ret => ⟨0xffff, 0x00ee⟩
  | .jp _ => ⟨0xf000, 0x1000⟩
  | .call _ => ⟨0xf000, 0x2000⟩
  | .seByte _ _ => ⟨0xf000, 0x3000⟩
  | .sneByte _ _ => ⟨0xf000, 0x4000⟩
  | .seReg _ _ => ⟨0xf00f, 0x5000⟩
  | .ldByte _ _ => ⟨0xf000, 0x6000⟩
  | .addByte _ _ => ⟨0xf000, 0x7000⟩
  | .ldReg _ _ => ⟨0xf00f, 0x8000⟩
  | .orReg _ _ => ⟨0xf00f, 0x8001⟩
  | .andReg _ _ => ⟨0xf00f, 0x8002⟩
  | .xorReg _ _ => ⟨0xf00f, 0x8003⟩
  | .addReg _ _ => ⟨0xf00f, 0x8004⟩
  | .subReg _ _ => ⟨0xf00f, 0x8005⟩
  | .shr _ _ => ⟨0xf00f, 0x8006⟩
  | .subnReg _ _ => ⟨0xf00f, 0x8007⟩
  | .shl _ _ => ⟨0xf00f, 0x800e⟩
  | .sneReg _ _ => ⟨0xf00f, 0x9000⟩
  | .ldI _ => ⟨0xf000, 0xa000⟩
  | .jpV0 _ => ⟨0xf000, 0xb000⟩
  | .rnd _ _ => ⟨0xf000, 0xc000⟩
  | .drw _ _ _ => ⟨0xf000, 0xd000⟩
  | .skp _ => ⟨0xf0ff, 0xe09e⟩
  | .sknp _ => ⟨0xf0ff, 0xe0a1⟩
  | .ldVxDt _ => ⟨0xf0ff, 0xf007⟩
  | .ldVxK _ => ⟨0xf0ff, 0xf00a⟩
  | .ldDtVx _ => ⟨0xf0ff, 0xf015⟩
  | .ldStVx _ => ⟨0xf0ff, 0xf018⟩
  | .addI _ => ⟨0xf0ff, 0xf01e⟩
  | .ldF _ => ⟨0xf0ff, 0xf029⟩
  | .ldB _ => ⟨0xf0ff, 0xf033⟩
  | .storeRegs _ => ⟨0xf0ff, 0xf055⟩
  | .loadRegs _ => ⟨0xf0ff, 0xf065⟩

/-- Rows 1 to 7 of the opcode map (R51). -/
def opRows0 : List OpRow := [
  ⟨0xffff, 0x0000⟩,
  ⟨0xffff, 0x00e0⟩,
  ⟨0xffff, 0x00ee⟩,
  ⟨0xf000, 0x1000⟩,
  ⟨0xf000, 0x2000⟩,
  ⟨0xf000, 0x3000⟩,
  ⟨0xf000, 0x4000⟩]

/-- Rows 8 to 14 of the opcode map (R51). -/
def opRows1 : List OpRow := [
  ⟨0xf00f, 0x5000⟩,
  ⟨0xf000, 0x6000⟩,
  ⟨0xf000, 0x7000⟩,
  ⟨0xf00f, 0x8000⟩,
  ⟨0xf00f, 0x8001⟩,
  ⟨0xf00f, 0x8002⟩,
  ⟨0xf00f, 0x8003⟩]

/-- Rows 15 to 21 of the opcode map (R51). -/
def opRows2 : List OpRow := [
  ⟨0xf00f, 0x8004⟩,
  ⟨0xf00f, 0x8005⟩,
  ⟨0xf00f, 0x8006⟩,
  ⟨0xf00f, 0x8007⟩,
  ⟨0xf00f, 0x800e⟩,
  ⟨0xf00f, 0x9000⟩,
  ⟨0xf000, 0xa000⟩]

/-- Rows 22 to 28 of the opcode map (R51). -/
def opRows3 : List OpRow := [
  ⟨0xf000, 0xb000⟩,
  ⟨0xf000, 0xc000⟩,
  ⟨0xf000, 0xd000⟩,
  ⟨0xf0ff, 0xe09e⟩,
  ⟨0xf0ff, 0xe0a1⟩,
  ⟨0xf0ff, 0xf007⟩,
  ⟨0xf0ff, 0xf00a⟩]

/-- Rows 29 to 35 of the opcode map (R51). -/
def opRows4 : List OpRow := [
  ⟨0xf0ff, 0xf015⟩,
  ⟨0xf0ff, 0xf018⟩,
  ⟨0xf0ff, 0xf01e⟩,
  ⟨0xf0ff, 0xf029⟩,
  ⟨0xf0ff, 0xf033⟩,
  ⟨0xf0ff, 0xf055⟩,
  ⟨0xf0ff, 0xf065⟩]

/-- The 35 rows of the opcode map, in the table's order (R51). -/
def opRows : List OpRow := opRows0 ++ opRows1 ++ opRows2 ++ opRows3 ++ opRows4

/-- A word is well formed when it matches a row of the opcode map; every other word is an unimplemented opcode (R53). -/
def wellFormed (w : Word) : Bool := opRows.any (fun p => p.covers w)

end Sys2Proof
end

