-- ==== Sys2Proof/Decode.lean ====
section
/-! DEFINITION. Decode.lean: from a 16-bit word, or from bytes, to an instruction or a refusal by name (30_encoding.md R49 to
R55, 40_cycle.md R59), and the encoder back, both written from the opcode map of R51. -/

namespace Sys2Proof

/-- Why bytes do not decode. -/
inductive DecodeError where
  /-- The word matches no pattern of the opcode map (R53); it carries the raw word. -/
  | unimplementedOpcode (w : Word)
  /-- Fewer than the two bytes every instruction has (R55). -/
  | tooShort
  deriving DecidableEq, Repr

/-- digit1, bits 15 to 12 (R9, R49). -/
def digit1 (w : Word) : Nibble := w.extractLsb' 12 4

/-- digit2 = X, bits 11 to 8 (R49). -/
def digit2 (w : Word) : Nibble := w.extractLsb' 8 4

/-- digit3 = Y, bits 7 to 4 (R49). -/
def digit3 (w : Word) : Nibble := w.extractLsb' 4 4

/-- digit4 = N, bits 3 to 0 (R49). -/
def digit4 (w : Word) : Nibble := w.extractLsb' 0 4

/-- NN, bits 7 to 0 (R49). -/
def lowByte (w : Word) : Byte := w.extractLsb' 0 8

/-- NNN, bits 11 to 0 (R49). -/
def low12 (w : Word) : Addr12 := w.extractLsb' 0 12

/-- The refusal of a word that matches no pattern (R53, R59). -/
def unimplemented (w : Word) : Except DecodeError Instr := .error (.unimplementedOpcode w)

/-- digit1 = 0: the three fixed words 0000, 00E0 and 00EE (R51 rows 1 to 3). -/
def decodeGroup0 (w : Word) : Except DecodeError Instr :=
  if w = 0x0000#16 then .ok .nop
  else if w = 0x00E0#16 then .ok .cls
  else if w = 0x00EE#16 then .ok .ret
  else unimplemented w

/-- digit1 = 5: 5XY0 (R51 row 8). -/
def decodeGroup5 (w : Word) : Except DecodeError Instr :=
  if digit4 w = 0x0#4 then .ok (.seReg (digit2 w) (digit3 w)) else unimplemented w

/-- digit1 = 8: 8XY0 to 8XY7 and 8XYE (R51 rows 11 to 19). -/
def decodeGroup8 (w : Word) : Except DecodeError Instr :=
  match (digit4 w).toNat with
  | 0x0 => .ok (.ldReg (digit2 w) (digit3 w))
  | 0x1 => .ok (.orReg (digit2 w) (digit3 w))
  | 0x2 => .ok (.andReg (digit2 w) (digit3 w))
  | 0x3 => .ok (.xorReg (digit2 w) (digit3 w))
  | 0x4 => .ok (.addReg (digit2 w) (digit3 w))
  | 0x5 => .ok (.subReg (digit2 w) (digit3 w))
  | 0x6 => .ok (.shr (digit2 w) (digit3 w))
  | 0x7 => .ok (.subnReg (digit2 w) (digit3 w))
  | 0xE => .ok (.shl (digit2 w) (digit3 w))
  | _ => unimplemented w

/-- digit1 = 9: 9XY0 (R51 row 20). -/
def decodeGroup9 (w : Word) : Except DecodeError Instr :=
  if digit4 w = 0x0#4 then .ok (.sneReg (digit2 w) (digit3 w)) else unimplemented w

/-- digit1 = E: EX9E and EXA1 (R51 rows 25 and 26). -/
def decodeGroupE (w : Word) : Except DecodeError Instr :=
  match (lowByte w).toNat with
  | 0x9E => .ok (.skp (digit2 w))
  | 0xA1 => .ok (.sknp (digit2 w))
  | _ => unimplemented w

/-- digit1 = F: the nine FXnn patterns (R51 rows 27 to 35). -/
def decodeGroupF (w : Word) : Except DecodeError Instr :=
  match (lowByte w).toNat with
  | 0x07 => .ok (.ldVxDt (digit2 w))
  | 0x0A => .ok (.ldVxK (digit2 w))
  | 0x15 => .ok (.ldDtVx (digit2 w))
  | 0x18 => .ok (.ldStVx (digit2 w))
  | 0x1E => .ok (.addI (digit2 w))
  | 0x29 => .ok (.ldF (digit2 w))
  | 0x33 => .ok (.ldB (digit2 w))
  | 0x55 => .ok (.storeRegs (digit2 w))
  | 0x65 => .ok (.loadRegs (digit2 w))
  | _ => unimplemented w

/-- `decode(w)`: dispatch on the word's digits, total, with an explicit refusal of every word outside the map (R52, R59). -/
def decode (w : Word) : Except DecodeError Instr :=
  match (digit1 w).toNat with
  | 0x0 => decodeGroup0 w
  | 0x1 => .ok (.jp (low12 w))
  | 0x2 => .ok (.call (low12 w))
  | 0x3 => .ok (.seByte (digit2 w) (lowByte w))
  | 0x4 => .ok (.sneByte (digit2 w) (lowByte w))
  | 0x5 => decodeGroup5 w
  | 0x6 => .ok (.ldByte (digit2 w) (lowByte w))
  | 0x7 => .ok (.addByte (digit2 w) (lowByte w))
  | 0x8 => decodeGroup8 w
  | 0x9 => decodeGroup9 w
  | 0xA => .ok (.ldI (low12 w))
  | 0xB => .ok (.jpV0 (low12 w))
  | 0xC => .ok (.rnd (digit2 w) (lowByte w))
  | 0xD => .ok (.drw (digit2 w) (digit3 w) (digit4 w))
  | 0xE => decodeGroupE w
  | 0xF => decodeGroupF w
  | _ => unimplemented w

/-- The word of two consecutive bytes, big-endian: the byte at the lower address holds digits 1 and 2 (R40). -/
def bigEndian (hi lo : Byte) : Word := BitVec.ofNat 16 (hi.toNat * 256 + lo.toNat)

/-- Decoding on any bytes: the first two are the word, the rest is what follows it (R40, R55). -/
def decodeBytes : List Byte → Except DecodeError (Instr × List Byte)
  | hi :: lo :: rest =>
    match decode (bigEndian hi lo) with
    | .ok i => .ok (i, rest)
    | .error e => .error e
  | _ => .error .tooShort

/-- The word the table's numbering calls `w`, of which `nbits` bits are given and the others are zero. -/
def tableWord (nbits w : Nat) : Word := BitVec.ofNat 16 (w % 2 ^ nbits)

/-- The bytes of a word as the hardware stores them, the first at the lowest address (R40). -/
def wordBytes (w : Word) : List Byte := [w.extractLsb' 8 8, w.extractLsb' 0 8]

/-- The instruction the decoder reads from the word that spec/opcode_table.json numbers `w`. -/
def decodeTableWord (nbits w : Nat) : Option Instr :=
  match decodeBytes (wordBytes (tableWord nbits w)) with
  | .ok (i, _) => some i
  | .error _ => none

/-- A word from its four digits (R9). -/
def ofDigits (d1 d2 d3 d4 : Nibble) : Word :=
  BitVec.ofNat 16 (d1.toNat * 4096 + d2.toNat * 256 + d3.toNat * 16 + d4.toNat)

/-- A word from digit1, X and NN (R49). -/
def ofXNN (d1 x : Nibble) (nn : Byte) : Word := BitVec.ofNat 16 (d1.toNat * 4096 + x.toNat * 256 + nn.toNat)

/-- A word from digit1 and NNN (R49). -/
def ofNNN (d1 : Nibble) (nnn : Addr12) : Word := BitVec.ofNat 16 (d1.toNat * 4096 + nnn.toNat)

/-- The word of an instruction, from the patterns of R51. -/
def encode : Instr → Word
  | .nop => 0x0000#16
  | .cls => 0x00E0#16
  | .ret => 0x00EE#16
  | .jp nnn => ofNNN 0x1#4 nnn
  | .call nnn => ofNNN 0x2#4 nnn
  | .seByte x nn => ofXNN 0x3#4 x nn
  | .sneByte x nn => ofXNN 0x4#4 x nn
  | .seReg x y => ofDigits 0x5#4 x y 0x0#4
  | .ldByte x nn => ofXNN 0x6#4 x nn
  | .addByte x nn => ofXNN 0x7#4 x nn
  | .ldReg x y => ofDigits 0x8#4 x y 0x0#4
  | .orReg x y => ofDigits 0x8#4 x y 0x1#4
  | .andReg x y => ofDigits 0x8#4 x y 0x2#4
  | .xorReg x y => ofDigits 0x8#4 x y 0x3#4
  | .addReg x y => ofDigits 0x8#4 x y 0x4#4
  | .subReg x y => ofDigits 0x8#4 x y 0x5#4
  | .shr x y => ofDigits 0x8#4 x y 0x6#4
  | .subnReg x y => ofDigits 0x8#4 x y 0x7#4
  | .shl x y => ofDigits 0x8#4 x y 0xE#4
  | .sneReg x y => ofDigits 0x9#4 x y 0x0#4
  | .ldI nnn => ofNNN 0xA#4 nnn
  | .jpV0 nnn => ofNNN 0xB#4 nnn
  | .rnd x nn => ofXNN 0xC#4 x nn
  | .drw x y n => ofDigits 0xD#4 x y n
  | .skp x => ofXNN 0xE#4 x 0x9E#8
  | .sknp x => ofXNN 0xE#4 x 0xA1#8
  | .ldVxDt x => ofXNN 0xF#4 x 0x07#8
  | .ldVxK x => ofXNN 0xF#4 x 0x0A#8
  | .ldDtVx x => ofXNN 0xF#4 x 0x15#8
  | .ldStVx x => ofXNN 0xF#4 x 0x18#8
  | .addI x => ofXNN 0xF#4 x 0x1E#8
  | .ldF x => ofXNN 0xF#4 x 0x29#8
  | .ldB x => ofXNN 0xF#4 x 0x33#8
  | .storeRegs x => ofXNN 0xF#4 x 0x55#8
  | .loadRegs x => ofXNN 0xF#4 x 0x65#8

end Sys2Proof
end

