-- ==== Sys2Proof/Machine/Font.lean ====
section
/-! DEFINITION. Machine/Font.lean: the parameter FONTSET, the 80 bytes of the built-in font at addresses 0 to 79
(10_state.md R31). The document gives no font bytes; the spec's table is its default (D11, U12; PRESUMED, assumption 1). -/

namespace Sys2Proof.Machine

/-- The glyphs of the digits 0 to 7, five bytes each, one byte per row from top to bottom (R31). -/
def glyphs0to7 : List Byte :=
  [0xF0, 0x90, 0x90, 0x90, 0xF0] ++
  [0x20, 0x60, 0x20, 0x20, 0x70] ++
  [0xF0, 0x10, 0xF0, 0x80, 0xF0] ++
  [0xF0, 0x10, 0xF0, 0x10, 0xF0] ++
  [0x90, 0x90, 0xF0, 0x10, 0x10] ++
  [0xF0, 0x80, 0xF0, 0x10, 0xF0] ++
  [0xF0, 0x80, 0xF0, 0x90, 0xF0] ++
  [0xF0, 0x10, 0x20, 0x40, 0x40]

/-- The glyphs of the digits 8 to F (R31). -/
def glyphs8toF : List Byte :=
  [0xF0, 0x90, 0xF0, 0x90, 0xF0] ++
  [0xF0, 0x90, 0xF0, 0x10, 0xF0] ++
  [0xF0, 0x90, 0xF0, 0x90, 0x90] ++
  [0xE0, 0x90, 0xE0, 0x90, 0xE0] ++
  [0xF0, 0x80, 0x80, 0x80, 0xF0] ++
  [0xE0, 0x90, 0x90, 0x90, 0xE0] ++
  [0xF0, 0x80, 0xF0, 0x80, 0xF0] ++
  [0xF0, 0x80, 0xF0, 0x80, 0x80]

/-- FONTSET: the glyph of digit `d` is at `5*d .. 5*d+4` (R31). -/
def fontset : List Byte := glyphs0to7 ++ glyphs8toF

end Sys2Proof.Machine
end

