-- ==== Sys2Proof/Config.lean ====
section
/-! DEFINITION. Config.lean: the fixed parameters of 00_scope.md R7 that definitions name, and the one free value of the
model, the random byte of CXNN (00_scope.md R15, 92_eei_decisions.md D15).
The two parameters the spec says were not in its source, the font bytes (D11) and the write order of the flag (D5), stand
in Machine/Font.lean and Machine/Flags.lean. -/

namespace Sys2Proof

/-- `MEM_SIZE`: memory has the addresses 0 to 4095 (R7, R36). -/
abbrev Config.memSize : Nat := 4096

/-- `LOAD_ADDR`: where program bytes are loaded, and the PC at reset (R7). -/
abbrev Config.loadAddr : Nat := 0x200

/-- The most bytes that fit from `LOAD_ADDR` to the end of memory (R109, R119). -/
abbrev Config.loadCapacity : Nat := 3584

/-- DESIGN CHOICE (safe for claims about one run; assumption 3): the random byte of the `n`-th draw. It has no body, so
nothing is known of its values: "tests must treat this instruction's output as a free variable masked by NN" (R15). -/
opaque Config.randomByte : Nat → Byte

end Sys2Proof
end

