-- ==== Sys2Proof/Machine/State.lean ====
section
/-! DEFINITION. Machine/State.lean: the state of the block as plain data (10_state.md R20 to R34), the fault record of
60_exceptions.md R104, the host's operations (40_cycle.md R57), and what a step may stop with. -/

namespace Sys2Proof.Machine

/-- The framebuffer: 32 rows of 64 pixels, true means on. `FB[x, y]` is row `y`, column `x`, which row-major is element
`x + 64*y` of the array of 2048 booleans (R30). -/
abbrev Framebuffer := Vector (Vector Bool 64) 32

/-- Memory as the bytes that differ from the contents after reset, in one canonical form: addresses strictly rising, each
below 4096, and no entry equal to what its address reads as unlisted (`Memory.wf`, Machine/Ops.lean). -/
abbrev Memory := List Host.Cell

/-- The kind of an out-of-range access (R36). -/
inductive AccessKind where
  | fetch
  | read
  | write
  deriving DecidableEq, Repr

/-- The five faults of R104 with the information each records. -/
inductive FaultCause where
  /-- Code 1: the fetched word matches no pattern; raised by decoding in `tick` (R53, R59). -/
  | unimplementedOpcode (word : Word)
  /-- Code 2: an access at 4096 or more, with the lowest such address; raised by the fetch, DXYN, FX33, FX55, FX65 (R36). -/
  | memoryOutOfRange (addr : Nat) (kind : AccessKind)
  /-- Code 3: a push with SP = 16; raised by 2NNN (R26, R70). -/
  | stackOverflow
  /-- Code 4: a pop with SP = 0; raised by 00EE (R26, R68). -/
  | stackUnderflow
  /-- Code 5: a key index of 16 or more; raised by EX9E and EXA1 (R97, R98). -/
  | keyIndexOutOfRange (value : Byte)
  deriving DecidableEq, Repr

/-- A fault record: the address of the instruction being executed, and the cause (R104). -/
structure FaultRecord where
  pc : Word
  cause : FaultCause
  deriving DecidableEq, Repr

/-- The host operations that act on a state (R57). `new()` makes a state and is `State.new` (Machine/HostOps.lean). -/
inductive HostOp where
  /-- `reset()` (R118) -/
  | reset
  /-- `load(bytes)` (R119) -/
  | load (bytes : List Byte)
  /-- `set_key(k, pressed)`; `k` is what the host passed, in range or not (R62) -/
  | setKey (k : Nat) (pressed : Bool)
  /-- `tick()` (R58) -/
  | tick
  /-- `tick_timers()` (R112) -/
  | tickTimers
  /-- `get_display()` (R63) -/
  | getDisplay
  deriving DecidableEq, Repr

/-- The Interpreter state (R20), and two fields of the model's own. -/
structure State where
  /-- `V[0..15]` (R21, R22) -/
  v : Vector Byte 16
  /-- `I` (R23) -/
  i : Word
  /-- `PC` (R24) -/
  pc : Word
  /-- `SP`, a natural from 0 to 16 (R25) -/
  sp : Fin 17
  /-- `STACK[0..15]` (R25) -/
  stack : Vector Word 16
  /-- `DT` (R27) -/
  dt : Byte
  /-- `ST` (R28) -/
  st : Byte
  /-- `KEY[0..15]`, true means pressed (R29) -/
  keys : Vector Bool 16
  /-- `FB[0..63, 0..31]` (R30) -/
  fb : Framebuffer
  /-- `MEM[0..4095]` (R31, R36) -/
  mem : Memory
  /-- `fault` (R32) -/
  fault : Option FaultRecord
  /-- `refused` (R32) -/
  refused : Bool
  /-- The model's own: how many random bytes have been drawn, the index of the next free value (R15; assumption 3). -/
  draws : Nat
  /-- The model's own: the host operations still to be performed, the first at the head (R64; assumption 4). -/
  pending : List HostOp
  deriving DecidableEq, Repr

/-- What stops the machine. -/
inductive Fault where
  /-- Raised by `step` when the state is already faulted and the operation is one that then has no step: `tick`,
  `tick_timers`, `set_key`, `load`, `reset` ("the block is stuck for good", R105). Safe: the machine stops where the spec says
  there is no step. (Raising a fault is not a stop: it is a next state with the record in `State.fault`.) -/
  | stuck (record : FaultRecord)
  deriving DecidableEq, Repr

/-- Why an instruction has no meaning. -/
inductive Refusal where
  /-- Raised by `exec` for an instruction that has no meaning yet; no arm of this model does so. Safe. -/
  | notModelled (mnemonic : String)
  deriving DecidableEq, Repr

/-- The outcome of a step of this machine. -/
abbrev Result := Host.Outcome State Fault Refusal

/-- The state after `new()` (R34, R117): every value is the spec's. Memory lists nothing, so it reads as FONTSET and zeros.
`draws` and `pending` are the model's own (DESIGN CHOICE, assumptions 3 and 4). -/
def State.reset : State where
  v := Vector.replicate 16 0
  i := 0
  pc := BitVec.ofNat 16 Config.loadAddr
  sp := 0
  stack := Vector.replicate 16 0
  dt := 0
  st := 0
  keys := Vector.replicate 16 false
  fb := Vector.replicate 32 (Vector.replicate 64 false)
  mem := []
  fault := none
  refused := false
  draws := 0
  pending := []

end Sys2Proof.Machine
end

