-- ==== Sys2Proof/Machine/Ops.lean ====
section
/-! DEFINITION. Machine/Ops.lean: the named operations over memory, registers, the program counter, the stack and the
framebuffer, and taking a fault, on which every meaning is built. -/

namespace Sys2Proof.Machine

/-! ### Memory (20_memory.md) -/

/-- What an unlisted address reads as: the contents after reset, FONTSET at 0 to 79 and zero elsewhere (R31, R34, R38). -/
def Memory.unlisted (a : Nat) : Byte := fontset.getD a 0

/-- The canonical form of memory. -/
abbrev Memory.wf (m : Memory) : Prop :=
  m.Pairwise (fun c d => c.1 < d.1) ∧ ∀ c ∈ m, c.1 < Config.memSize ∧ c.2 ≠ Memory.unlisted c.1

/-- `MEM[a]` (R12): the listed byte, or what the address reads as unlisted. The range is checked by the caller. -/
def Memory.read : Memory → Nat → Byte
  | [], a => Memory.unlisted a
  | (b, x) :: rest, a => if b = a then x else Memory.read rest a

/-- The cells at the front of memory for address `a` holding `x`: none where `x` is what `a` reads as unlisted. -/
def Memory.cellFor (a : Nat) (x : Byte) : Memory := if x = Memory.unlisted a then [] else [(a, x)]

/-- `MEM[a] <- x` (R12), keeping the canonical form. "A write changes only the addressed byte" (R43). -/
def Memory.write : Memory → Nat → Byte → Memory
  | [], a, x => Memory.cellFor a x
  | (b, y) :: rest, a, x =>
    if a < b then Memory.cellFor a x ++ (b, y) :: rest
    else if a = b then Memory.cellFor a x ++ rest
    else (b, y) :: Memory.write rest a x

/-- The bytes at `a, a+1, …, a+n-1` (R37: addresses are unbounded sums). -/
def Memory.readBlock (m : Memory) (a n : Nat) : List Byte := (List.range n).map fun k => m.read (a + k)

/-- Writes the bytes at `a, a+1, …`, in this order. -/
def Memory.writeBlock : Memory → Nat → List Byte → Memory
  | m, _, [] => m
  | m, a, b :: bs => Memory.writeBlock (m.write a b) (a + 1) bs

/-- The range check of an access to the `count` bytes from `first` on: `MemoryOutOfRange` with the lowest address of 4096 or
more, if there is one (R36, R37, R106; D1, D2). -/
def rangeFault (first count : Nat) (kind : AccessKind) : Option FaultCause :=
  if count ≠ 0 ∧ Config.memSize < first + count then
    some (.memoryOutOfRange (max first Config.memSize) kind)
  else none

/-! ### Registers and the program counter (10_state.md) -/

/-- Reads `V[x]` (R21). -/
def State.reg (s : State) (x : RegIdx) : Byte := s.v[x.toNat]'x.isLt

/-- `V[x] <- b` (R21). -/
def State.setReg (s : State) (x : RegIdx) (b : Byte) : State := { s with v := s.v.set x.toNat b x.isLt }

/-- `I <- a` (R23). -/
def State.setI (s : State) (a : Word) : State := { s with i := a }

/-- `PC <- a` (R24). -/
def State.setPc (s : State) (a : Word) : State := { s with pc := a }

/-- `DT <- b` (R27). -/
def State.setDt (s : State) (b : Byte) : State := { s with dt := b }

/-- `ST <- b` (R28). -/
def State.setSt (s : State) (b : Byte) : State := { s with st := b }

/-- The memory is replaced, after bytes were written to it. -/
def State.setMem (s : State) (m : Memory) : State := { s with mem := m }

/-- The framebuffer is replaced, after pixels were drawn. -/
def State.setFb (s : State) (f : Framebuffer) : State := { s with fb := f }

/-- One more random byte has been drawn (assumption 3). -/
def State.countDraw (s : State) : State := { s with draws := s.draws + 1 }

/-- The fetch advance and a taken skip: `PC <- PC + 2`, modulo 65536 (R17, R24, R58). -/
def State.advance (s : State) : State := s.setPc (s.pc + 2)

/-- FX0A's rewind: `PC <- PC - 2` (R99). -/
def State.rewind (s : State) : State := s.setPc (s.pc - 2)

/-- A skip: the PC is advanced once more if the condition holds (R17). -/
def State.skipIf (s : State) (c : Bool) : State := if c then s.advance else s

/-! ### Taking a fault (60_exceptions.md R104 to R107) -/

/-- The faulted state: fault `cause` of the instruction at address `a`. PC is `a`, the record is set, and nothing else is
written (R13, R105). -/
def State.raiseAt (s : State) (a : Word) (cause : FaultCause) : State := { s with pc := a, fault := some ⟨a, cause⟩ }

/-- The fault of an executing instruction. PC already holds its address plus 2 (R58), so the address is `PC - 2`: the PC
advance of the fetch is undone as well (R13). -/
def State.raise (s : State) (cause : FaultCause) : State := s.raiseAt (s.pc - 2) cause

/-- The end of an instruction's check phase (R14): the fault it found, with nothing written, or its effect. -/
def checked (s : State) (found : Option FaultCause) (effect : State) : Result :=
  match found with
  | some cause => .next (s.raise cause)
  | none => .next effect

/-! ### The stack (10_state.md R25, R26) -/

/-- `Push(a)`: writes the next entry and counts it, or StackOverflow with all 16 entries live. -/
def State.push (s : State) (a : Word) : Except FaultCause State :=
  if h : s.sp.val < 16 then
    .ok { s with stack := s.stack.set s.sp.val a h, sp := ⟨s.sp.val + 1, Nat.succ_lt_succ h⟩ }
  else .error .stackOverflow

/-- `Pop()`: the last live entry and the state with it no longer counted, or StackUnderflow with none live. The entry keeps its
value (R25, D20). -/
def State.pop (s : State) : Except FaultCause (Word × State) :=
  match s.sp with
  | ⟨0, _⟩ => .error .stackUnderflow
  | ⟨k + 1, h⟩ => .ok (s.stack[k]'(Nat.lt_of_succ_lt_succ h), { s with sp := ⟨k, Nat.lt_of_succ_lt h⟩ })

/-! ### The framebuffer (10_state.md R30) -/

/-- `FB[x mod 64, y mod 32]` (R30; the wrap is R96's). -/
def Framebuffer.pixel (f : Framebuffer) (x y : Nat) : Bool :=
  (f[y % 32]'(Nat.mod_lt _ (by decide)))[x % 64]'(Nat.mod_lt _ (by decide))

/-- `FB[x mod 64, y mod 32] <- not FB[x mod 64, y mod 32]` (R96). -/
def Framebuffer.flip (f : Framebuffer) (x y : Nat) : Framebuffer :=
  f.set (y % 32)
    ((f[y % 32]'(Nat.mod_lt _ (by decide))).set (x % 64) (!f.pixel x y) (Nat.mod_lt _ (by decide)))
    (Nat.mod_lt _ (by decide))

/-- Every pixel off (R95). -/
def Framebuffer.clear : Framebuffer := Vector.replicate 32 (Vector.replicate 64 false)

end Sys2Proof.Machine
end

