-- ==== Sys2Proof/Machine/Operands.lean ====
section
/-! DEFINITION. Machine/Operands.lean: how the fields of an instruction become values (30_encoding.md R50), and the addresses an
instruction reaches through I (20_memory.md R37, R42). -/

namespace Sys2Proof.Machine

/-- NNN as a value for PC or I: zero-extended, "used as is" (R50). -/
def addrOperand (nnn : Addr12) : Word := nnn.setWidth 16

/-- The register that BNNN adds to, and the first of a block (R71, R93, R94). -/
def v0 : RegIdx := 0x0#4

/-- VF, the flag output (R22). -/
def vF : RegIdx := 0xF#4

/-- The address of the first byte reached through I (R37). -/
def State.base (s : State) : Nat := s.i.toNat

/-- How many bytes FX55 and FX65 move: V0 to Vx inclusive (R42). -/
def blockCount (x : RegIdx) : Nat := x.toNat + 1

/-- The values of V0 to Vx, in order (R93). -/
def State.regBlock (s : State) (x : RegIdx) : List Byte :=
  (List.range (blockCount x)).map fun k => s.reg (BitVec.ofNat 4 k)

/-- V0 to Vx replaced by the bytes from `a` on; registers above X are unchanged (R94). -/
def State.setRegBlock (s : State) (x : RegIdx) (a : Nat) : State :=
  { s with v := Vector.ofFn fun k => if k.val ≤ x.toNat then s.mem.read (a + k.val) else s.v[k.val] }

/-- The decimal digits of a byte, hundreds first (R92). -/
def decimalDigits (b : Byte) : List Byte :=
  [BitVec.ofNat 8 (b.toNat / 100), BitVec.ofNat 8 (b.toNat / 10 % 10), BitVec.ofNat 8 (b.toNat % 10)]

/-- The key that the value of Vx names, or KeyIndexOutOfRange (R97, R98; D4). -/
def State.keyOf (s : State) (x : RegIdx) : Except FaultCause Bool :=
  if h : (s.reg x).toNat < 16 then .ok s.keys[(s.reg x).toNat] else .error (.keyIndexOutOfRange (s.reg x))

/-- The least index of a pressed key, if any is pressed (R99). -/
def State.leastKey (s : State) : Option Nat := s.keys.toList.findIdx? id

end Sys2Proof.Machine
end

