-- ==== Sys2Proof/Machine/Flags.lean ====
section
/-! DEFINITION. Machine/Flags.lean: the flag values written to VF (10_state.md R22) and the order of the data and the flag
write (D5). The arithmetic is on naturals, with the truncation written out (00_scope.md R10). -/

namespace Sys2Proof.Machine

/-- A flag as the byte VF takes: 1 or 0 (R22). -/
def flagByte (b : Bool) : Byte := if b then 1 else 0

/-- 8XY4: the true sum is 256 or more (R83). -/
def carry (a b : Byte) : Bool := decide (256 ≤ a.toNat + b.toNat)

/-- 8XY5 and 8XY7: no borrow, the first operand is at least the second (R84, R86). -/
def noBorrow (a b : Byte) : Bool := decide (b.toNat ≤ a.toNat)

/-- 8XY6: bit 0 before the shift (R85). -/
def lowBit (a : Byte) : Bool := decide (a.toNat % 2 = 1)

/-- 8XYE: bit 7 before the shift (R87). -/
def highBit (a : Byte) : Bool := decide (a.toNat / 128 % 2 = 1)

/-- `trunc_8` (R10). -/
def trunc8 (n : Nat) : Byte := BitVec.ofNat 8 n

/-- `trunc_16` (R10). -/
def trunc16 (n : Nat) : Word := BitVec.ofNat 16 n

/-- The parameter FLAG_WRITE_LAST with its default: with X = F, the flag write happens last (D5, U11; assumption 2). -/
def flagWriteLast : Bool := true

/-- The write phase of the five flag instructions: the data to `V[x]` and the flag to VF (R83 to R87). -/
def State.setWithFlag (s : State) (x : RegIdx) (data : Byte) (flag : Bool) : State :=
  if flagWriteLast then (s.setReg x data).setReg vF (flagByte flag)
  else (s.setReg vF (flagByte flag)).setReg x data

end Sys2Proof.Machine
end

