-- ==== Sys2Proof/Machine/Alu.lean ====
section
/-! DEFINITION. Machine/Alu.lean: the register and ALU instructions (42_alu.md). Every one leaves PC as the fetch set it. -/

namespace Sys2Proof.Machine

/-- 6XNN LD Vx, NN (R77). -/
def execLdByte (x : RegIdx) (nn : Byte) (s : State) : Result := .next (s.setReg x nn)

/-- 7XNN ADD Vx, NN: wraps, no flag (R78). -/
def execAddByte (x : RegIdx) (nn : Byte) (s : State) : Result :=
  .next (s.setReg x (trunc8 ((s.reg x).toNat + nn.toNat)))

/-- 8XY0 LD Vx, Vy (R79). -/
def execLdReg (x y : RegIdx) (s : State) : Result := .next (s.setReg x (s.reg y))

/-- 8XY1 OR Vx, Vy: VF is not reset (R80, D10). -/
def execOrReg (x y : RegIdx) (s : State) : Result := .next (s.setReg x (s.reg x ||| s.reg y))

/-- 8XY2 AND Vx, Vy: VF is not reset (R81, D10). -/
def execAndReg (x y : RegIdx) (s : State) : Result := .next (s.setReg x (s.reg x &&& s.reg y))

/-- 8XY3 XOR Vx, Vy: VF is not reset (R82, D10). -/
def execXorReg (x y : RegIdx) (s : State) : Result := .next (s.setReg x (s.reg x ^^^ s.reg y))

/-- 8XY4 ADD Vx, Vy, VF = carry (R83). -/
def execAddReg (x y : RegIdx) (s : State) : Result :=
  .next (s.setWithFlag x (trunc8 ((s.reg x).toNat + (s.reg y).toNat)) (carry (s.reg x) (s.reg y)))

/-- 8XY5 SUB Vx, Vy, VF = no borrow (R84). -/
def execSubReg (x y : RegIdx) (s : State) : Result :=
  .next (s.setWithFlag x (trunc8 ((s.reg x).toNat + 256 - (s.reg y).toNat)) (noBorrow (s.reg x) (s.reg y)))

/-- 8XY6 SHR Vx, VF = bit 0 before the shift; `y` is not used (R85). -/
def execShr (x _y : RegIdx) (s : State) : Result :=
  .next (s.setWithFlag x (trunc8 ((s.reg x).toNat / 2)) (lowBit (s.reg x)))

/-- 8XY7 SUBN Vx, Vy, VF = no borrow (R86). -/
def execSubnReg (x y : RegIdx) (s : State) : Result :=
  .next (s.setWithFlag x (trunc8 ((s.reg y).toNat + 256 - (s.reg x).toNat)) (noBorrow (s.reg y) (s.reg x)))

/-- 8XYE SHL Vx, VF = bit 7 before the shift; `y` is not used (R87). -/
def execShl (x _y : RegIdx) (s : State) : Result :=
  .next (s.setWithFlag x (trunc8 ((s.reg x).toNat * 2)) (highBit (s.reg x)))

/-- CXNN RND Vx, NN: a fresh draw masked by NN (R15, R88, D15). -/
def execRnd (x : RegIdx) (nn : Byte) (s : State) : Result :=
  .next ((s.setReg x (Config.randomByte s.draws &&& nn)).countDraw)

end Sys2Proof.Machine
end

