-- ==== Sys2Proof/Machine/Control.lean ====
section
/-! DEFINITION. Machine/Control.lean: the no-op, return, jumps, call and register skips (41_control.md). When a meaning starts, PC
already holds the instruction's address plus 2 (40_cycle.md R58). -/

namespace Sys2Proof.Machine

/-- 0000 NOP: nothing (R67). -/
def execNop (s : State) : Result := .next s

/-- 00EE RET: the popped entry, "used as is" (R68). -/
def execRet (s : State) : Result :=
  match s.pop with
  | .ok (a, t) => .next (t.setPc a)
  | .error cause => .next (s.raise cause)

/-- 1NNN JP NNN (R69). -/
def execJp (nnn : Addr12) (s : State) : Result := .next (s.setPc (addrOperand nnn))

/-- 2NNN CALL NNN: the address after the call is pushed (R70). -/
def execCall (nnn : Addr12) (s : State) : Result :=
  match s.push s.pc with
  | .ok t => .next (t.setPc (addrOperand nnn))
  | .error cause => .next (s.raise cause)

/-- BNNN JP V0, NNN: the sum is not masked (R71, C1). -/
def execJpV0 (nnn : Addr12) (s : State) : Result := .next (s.setPc (trunc16 ((s.reg v0).toNat + nnn.toNat)))

/-- 3XNN SE Vx, NN (R72). -/
def execSeByte (x : RegIdx) (nn : Byte) (s : State) : Result := .next (s.skipIf (decide (s.reg x = nn)))

/-- 4XNN SNE Vx, NN (R73). -/
def execSneByte (x : RegIdx) (nn : Byte) (s : State) : Result := .next (s.skipIf (decide (s.reg x ≠ nn)))

/-- 5XY0 SE Vx, Vy (R74). -/
def execSeReg (x y : RegIdx) (s : State) : Result := .next (s.skipIf (decide (s.reg x = s.reg y)))

/-- 9XY0 SNE Vx, Vy (R75). -/
def execSneReg (x y : RegIdx) (s : State) : Result := .next (s.skipIf (decide (s.reg x ≠ s.reg y)))

end Sys2Proof.Machine
end

