-- ==== Sys2Proof/Machine/Display.lean ====
section
/-! DEFINITION. Machine/Display.lean: clearing the framebuffer and drawing a sprite (44_display.md). -/

namespace Sys2Proof.Machine

/-- What the drawing loop carries: the framebuffer so far, and whether some on pixel was turned off (R96). -/
structure Canvas where
  fb : Framebuffer
  collision : Bool
  deriving DecidableEq, Repr

/-- One sprite bit that is 1: the collision test, then the flip, at the wrapped pixel (R96). -/
def Canvas.flip (d : Canvas) (px py : Nat) : Canvas :=
  { fb := d.fb.flip px py, collision := d.collision || d.fb.pixel px py }

/-- Column `c` of a row byte, most significant bit first (R96). -/
def spriteBit (row : Byte) (c : Nat) : Bool := row.getLsbD (7 - c)

/-- One row: the eight columns from left to right (R96). -/
def Canvas.drawRow (d : Canvas) (ox py : Nat) (row : Byte) : Canvas :=
  (List.range 8).foldl (fun d c => if spriteBit row c then d.flip (ox + c) py else d) d

/-- The rows from top to bottom (R96). -/
def Canvas.drawRows : Canvas → Nat → Nat → List Byte → Canvas
  | d, _, _, [] => d
  | d, ox, py, row :: rows => Canvas.drawRows (d.drawRow ox py row) ox (py + 1) rows

/-- 00E0 CLS (R95). -/
def execCls (s : State) : Result := .next (s.setFb Framebuffer.clear)

/-- The canvas after DXYN's sprite is drawn: N rows from memory at I, with the origin in Vx and Vy (R96). -/
def State.drawn (s : State) (x y : RegIdx) (n : Nibble) : Canvas :=
  Canvas.drawRows ⟨s.fb, false⟩ (s.reg x).toNat (s.reg y).toNat (s.mem.readBlock s.base n.toNat)

/-- DXYN DRW Vx, Vy, N: VF = collision, written on every execution; N = 0 draws nothing (R96, D8). -/
def execDrw (x y : RegIdx) (n : Nibble) (s : State) : Result :=
  checked s (rangeFault s.base n.toNat .read)
    ((s.setFb (s.drawn x y n).fb).setReg vF (flagByte (s.drawn x y n).collision))

end Sys2Proof.Machine
end

