-- ==== Sys2Proof/Machine/Index.lean ====
section
/-! DEFINITION. Machine/Index.lean: the index register and the memory instructions (43_index_memory.md). Every address is checked
before anything is written, and I is not modified by FX33, FX55 or FX65 (D7, D9). -/

namespace Sys2Proof.Machine

/-- ANNN LD I, NNN (R89). -/
def execLdI (nnn : Addr12) (s : State) : Result := .next (s.setI (addrOperand nnn))

/-- FX1E ADD I, Vx: wraps at 16 bits, no flag (R90). -/
def execAddI (x : RegIdx) (s : State) : Result := .next (s.setI (trunc16 (s.i.toNat + (s.reg x).toNat)))

/-- FX29 LD F, Vx: Vx is not masked to a digit (R91). -/
def execLdF (x : RegIdx) (s : State) : Result := .next (s.setI (trunc16 ((s.reg x).toNat * 5)))

/-- FX33 LD B, Vx: hundreds, tens, ones at I, I+1, I+2 (R92). -/
def execLdB (x : RegIdx) (s : State) : Result :=
  checked s (rangeFault s.base 3 .write) (s.setMem (s.mem.writeBlock s.base (decimalDigits (s.reg x))))

/-- FX55 LD [I], Vx: V0 to Vx at I to I+X (R93). -/
def execStoreRegs (x : RegIdx) (s : State) : Result :=
  checked s (rangeFault s.base (blockCount x) .write) (s.setMem (s.mem.writeBlock s.base (s.regBlock x)))

/-- FX65 LD Vx, [I]: V0 to Vx from I to I+X (R94). -/
def execLoadRegs (x : RegIdx) (s : State) : Result :=
  checked s (rangeFault s.base (blockCount x) .read) (s.setRegBlock x s.base)

end Sys2Proof.Machine
end

