-- ==== Sys2Proof/Machine/KeysTimers.lean ====
section
/-! DEFINITION. Machine/KeysTimers.lean: the key skips, the key wait and timer access (45_keys_timers.md). -/

namespace Sys2Proof.Machine

/-- EX9E SKP Vx (R97). -/
def execSkp (x : RegIdx) (s : State) : Result :=
  match s.keyOf x with
  | .ok pressed => .next (s.skipIf pressed)
  | .error cause => .next (s.raise cause)

/-- EXA1 SKNP Vx (R98). -/
def execSknp (x : RegIdx) (s : State) : Result :=
  match s.keyOf x with
  | .ok pressed => .next (s.skipIf (!pressed))
  | .error cause => .next (s.raise cause)

/-- FX0A LD Vx, K: the least pressed key, or the PC rewound so that the next tick fetches it again (R66, R99). -/
def execLdVxK (x : RegIdx) (s : State) : Result :=
  match s.leastKey with
  | some k => .next (s.setReg x (trunc8 k))
  | none => .next s.rewind

/-- FX07 LD Vx, DT (R100). -/
def execLdVxDt (x : RegIdx) (s : State) : Result := .next (s.setReg x s.dt)

/-- FX15 LD DT, Vx (R101). -/
def execLdDtVx (x : RegIdx) (s : State) : Result := .next (s.setDt (s.reg x))

/-- FX18 LD ST, Vx (R102). -/
def execLdStVx (x : RegIdx) (s : State) : Result := .next (s.setSt (s.reg x))

end Sys2Proof.Machine
end

