-- ==== Sys2Proof/Machine/Cycle.lean ====
section
/-! DEFINITION. Machine/Cycle.lean: fetching a word and the instruction cycle `tick()` (40_cycle.md R58, R59). -/

namespace Sys2Proof.Machine

/-- `MemRead(a, 1)` for the fetch, with its range check (R12, R36). -/
def fetchByte (m : Memory) (a : Nat) : Except FaultCause Byte :=
  match rangeFault a 1 .fetch with
  | some cause => .error cause
  | none => .ok (m.read a)

/-- The fetch: MEM[PC], then MEM[PC+1], combined big-endian (R40, R58). -/
def State.fetch (s : State) : Except FaultCause Word :=
  match fetchByte s.mem s.pc.toNat with
  | .error cause => .error cause
  | .ok hi =>
    match fetchByte s.mem (s.pc.toNat + 1) with
    | .error cause => .error cause
    | .ok lo => .ok (bigEndian hi lo)

/-- An operation that has no step on a faulted state (R105). -/
def State.ifRunning (s : State) (r : Result) : Result :=
  match s.fault with
  | some record => .fault (.stuck record)
  | none => r

/-- One instruction, on a state that is not faulted: fetch, advance the PC by 2, decode, execute (R58). A fetch that faults or a
word that does not decode faults with PC unchanged (R106). -/
def State.cycle (s : State) : Result :=
  match s.fetch with
  | .error cause => .next (s.raiseAt s.pc cause)
  | .ok w =>
    match decode w with
    | .ok i => exec i s.advance
    | .error _ => .next (s.advance.raise (.unimplementedOpcode w))

/-- `tick()` (R58). -/
def tick (s : State) : Result := s.ifRunning s.cycle

end Sys2Proof.Machine
end

