-- ==== Sys2Proof/Machine/HostOps.lean ====
section
/-! DEFINITION. Machine/HostOps.lean: the host operations other than `tick()` (40_cycle.md R57, R62, R63; 60_exceptions.md R109, R112;
70_reset_and_hazards.md R117 to R119), and the storing of a word where the next fetch reads it. -/

namespace Sys2Proof.Machine

/-- `new()` (R117). -/
def State.new : State := State.reset

/-- `reset()`: every field of R20 as `new()` leaves it, but `refused` keeps its value (R118). The model's own fields are kept too
(DESIGN CHOICE, assumption 5). -/
def State.hostReset (s : State) : State :=
  { State.reset with refused := s.refused, draws := s.draws, pending := s.pending }

/-- A refused host operation: only `refused` is set (R109). -/
def State.refuse (s : State) : State := { s with refused := true }

/-- `load(bytes)`: verbatim from 0x200 on, or refused whole (R119, D12). -/
def State.load (s : State) (bytes : List Byte) : State :=
  if Config.loadCapacity < bytes.length then s.refuse
  else s.setMem (s.mem.writeBlock Config.loadAddr bytes)

/-- `set_key(k, pressed)`: one key flag, or refused (R62, D13). -/
def State.setKey (s : State) (k : Nat) (pressed : Bool) : State :=
  if h : k < 16 then { s with keys := s.keys.set k pressed h } else s.refuse

/-- A timer after one timer tick: 0 stays 0 (R112, R113). -/
def countDown (b : Byte) : Byte := if b = 0 then 0 else b - 1

/-- `tick_timers()` (R112). -/
def State.tickTimers (s : State) : State := { s with dt := countDown s.dt, st := countDown s.st }

/-- `get_display()`: what the host reads, the 2048 pixels row-major, element `x + 64*y` for `FB[x, y]` (R30, R63). -/
def State.getDisplay (s : State) : Vector Bool 2048 := Vector.ofFn fun k => s.fb.pixel (k.val % 64) (k.val / 64)

/-- The sound timer's one external meaning: the host should be emitting a tone (R28, R113). -/
def State.tone (s : State) : Bool := decide (s.st ≠ 0)

/-- One host operation (R57). `get_display` writes no state and may be called on any state; the others have no step on a faulted
state (R63, R105). -/
def perform (op : HostOp) (s : State) : Result :=
  match op with
  | .reset => s.ifRunning (.next s.hostReset)
  | .load bytes => s.ifRunning (.next (s.load bytes))
  | .setKey k pressed => s.ifRunning (.next (s.setKey k pressed))
  | .tick => tick s
  | .tickTimers => s.ifRunning (.next s.tickTimers)
  | .getDisplay => .next s

/-- The PC where a fetch can be made: the PC itself, or LOAD_ADDR where a fetch at the PC would be out of range. -/
def State.fetchablePc (s : State) : Word :=
  if s.pc.toNat + 1 < Config.memSize then s.pc else BitVec.ofNat 16 Config.loadAddr

/-- The state with a word stored where the next step fetches: a fetch also needs a PC in range, no fault and no other host
operation before it (assumption 7). -/
def State.placeWord (s : State) (w : Word) : State :=
  { s with
    pc := s.fetchablePc
    mem := s.mem.writeBlock s.fetchablePc.toNat (wordBytes w)
    fault := none
    pending := [] }

end Sys2Proof.Machine
end

