-- ==== Sys2Proof/Machine/Step.lean ====
section
/-! DEFINITION. Machine/Step.lean: one step of the machine, which is one host operation (40_cycle.md R57, R64). -/

namespace Sys2Proof.Machine

/-- One step: the next operation of the host's schedule, and `tick()` where the schedule is exhausted (R64; assumption 4). -/
def step (s : State) : Host.Outcome State Fault Refusal :=
  match s.pending with
  | [] => tick s
  | op :: rest => perform op { s with pending := rest }

/-- `s` with the word the opcode table numbers `w` stored where the next step fetches it (assumption 7). -/
def State.withFetchWord (s : State) (nbits w : Nat) : State := s.placeWord (tableWord nbits w)

end Sys2Proof.Machine
end

