-- ==== Sys2Proof/Safety.lean ====
section
/-! DEFINITION. Safety.lean: the invariant of the machine, and what a safe run is. -/

namespace Sys2Proof.Machine

/-- The bounds the spec derives for what any run can hold: memory is in its canonical form, "every reachable PC is at most 4350" and
"pushed values are at most 4096" (40_cycle.md R60). -/
structure State.Inv (s : State) : Prop where
  mem_wf : s.mem.wf
  pc_le : s.pc.toNat ≤ 4350
  stack_le : ∀ (k : Nat) (h : k < 16), (s.stack[k]'h).toNat ≤ 4096

/-- Neither mark is set: the run has not faulted and the host has not broken its contract (R32, R65). -/
def State.Normal (s : State) : Prop := s.fault = none ∧ s.refused = false

/-- A safe run of `k` steps from `s`: it goes to its end, and ends normally. Both marks are sticky, so no state on the way has one
set (R65: only a schedule that is exhausted with neither mark set is a normal end). -/
def SafeRun (k : Nat) (s : State) : Prop := ∃ t, Sys2Proof.core.run k s = .next t ∧ t.Normal

end Sys2Proof.Machine
end

