-- ==== Sys2Proof/Certificates/Slice0/Obligations.lean ====
section
/-! DEFINITION. Certificates/Slice0/Obligations.lean: the statements about the model, and the words they are said in.
A meaning starts with PC already at the instruction's address plus 2 (40_cycle.md R58): in a statement about `exec i s`, `s.pc` is
that value, so "PC stays a + 2" is `t.pc = s.pc`, and the instruction's own address is `s.pc - 2`. -/

namespace Sys2Proof.Claims

open Sys2Proof Sys2Proof.Machine

/-! ### Fields of a word, as numbers (00_scope.md R9, 30_encoding.md R49) -/

/-- X = w[11:8]. -/
def fieldX (w : Word) : RegIdx := BitVec.ofNat 4 (w.toNat / 256 % 16)

/-- Y = w[7:4]. -/
def fieldY (w : Word) : RegIdx := BitVec.ofNat 4 (w.toNat / 16 % 16)

/-- N = w[3:0]. -/
def fieldN (w : Word) : Nibble := BitVec.ofNat 4 (w.toNat % 16)

/-- NN = w[7:0]. -/
def fieldNN (w : Word) : Byte := BitVec.ofNat 8 (w.toNat % 256)

/-- NNN = w[11:0]. -/
def fieldNNN (w : Word) : Addr12 := BitVec.ofNat 12 (w.toNat % 4096)

/-- Every word with the pattern's mask and match decodes to the instruction with the word's fields (R51). -/
def DecodesTo (mask value : Word) (f : Word → Instr) : Prop := ∀ w : Word, w &&& mask = value → decode w = .ok (f w)

/-! ### Frames: what stays as it was -/

/-- The parts of the state an instruction may write. The keys, the fault and refusal marks and the pending operations are not among
them: no instruction that completes writes those. -/
structure Writes where
  regs : List RegIdx := []
  index : Bool := false
  pc : Bool := false
  stack : Bool := false
  dt : Bool := false
  st : Bool := false
  screen : Bool := false
  memory : Bool := false
  draws : Bool := false

/-- `t` is `s` but for the parts named: every other register, I, PC, SP and the stack entries, DT, ST, every pixel, every byte of
memory, the count of draws; and in any case the keys, the marks and the pending operations. -/
structure Frame (w : Writes) (s t : State) : Prop where
  regs : ∀ r, r ∉ w.regs → t.reg r = s.reg r
  index : w.index = false → t.i = s.i
  pc : w.pc = false → t.pc = s.pc
  stack : w.stack = false → t.sp = s.sp ∧ ∀ (k : Nat) (h : k < 16), t.stack[k] = s.stack[k]
  dt : w.dt = false → t.dt = s.dt
  st : w.st = false → t.st = s.st
  screen : w.screen = false → ∀ px py, px < 64 → py < 32 → t.fb.pixel px py = s.fb.pixel px py
  memory : w.memory = false → ∀ a, t.mem.read a = s.mem.read a
  draws : w.draws = false → t.draws = s.draws
  keys : ∀ (k : Nat) (h : k < 16), t.keys[k] = s.keys[k]
  marks : t.fault = s.fault ∧ t.refused = s.refused
  pending : t.pending = s.pending

/-- The faulted state an executing instruction leaves: PC at its own address, the record set, nothing else written (R13, R105). That it
is a next state, and the stop comes at the step after it, is deduced (log 9). -/
def faultedAt (s : State) (cause : FaultCause) : State :=
  { s with pc := s.pc - 2, fault := some { pc := s.pc - 2, cause := cause } }

/-- The next operation is an instruction tick: the head of the pending operations, or none is pending (log 4). -/
def TickIsNext (s : State) : Prop := s.pending = [] ∨ s.pending.head? = some .tick

/-- The 16-bit word at the PC: `MEM[PC] * 256 + MEM[PC+1]` (R40). -/
def wordAtPc (s : State) : Word :=
  BitVec.ofNat 16 ((s.mem.read s.pc.toNat).toNat * 256 + (s.mem.read (s.pc.toNat + 1)).toNat)

/-- Some 1 bit of DXYN's sprite falls on pixel (px, py): row `r`, column `c`, with the wrap of R96. -/
def SpriteHits (s : State) (x y : RegIdx) (n : Nibble) (px py : Nat) : Prop :=
  ∃ r c, r < n.toNat ∧ c < 8 ∧ (s.mem.read (s.i.toNat + r)).getLsbD (7 - c) = true ∧
    px = ((s.reg x).toNat + c) % 64 ∧ py = ((s.reg y).toNat + r) % 32

/-- The registers an instruction may write: its destination, VF for the flag instructions and DXYN, V0 to Vx for FX65 (R21, R22). -/
def MayWriteReg : Instr → RegIdx → Prop
  | .ldByte x _, r | .addByte x _, r | .ldReg x _, r | .orReg x _, r | .andReg x _, r | .xorReg x _, r
  | .rnd x _, r | .ldVxDt x, r | .ldVxK x, r => r = x
  | .addReg x _, r | .subReg x _, r | .shr x _, r | .subnReg x _, r | .shl x _, r => r = x ∨ r = 0xF#4
  | .drw _ _ _, r => r = 0xF#4
  | .loadRegs x, r => r.toNat ≤ x.toNat
  | _, _ => False

/-- The conditions under which an instruction raises its own fault (R104). -/
def FaultsOn : Instr → State → Prop
  | .ret, s => s.sp.val = 0
  | .call _, s => s.sp.val = 16
  | .skp x, s | .sknp x, s => 16 ≤ (s.reg x).toNat
  | .drw _ _ n, s => n ≠ 0 ∧ 4096 < s.i.toNat + n.toNat
  | .ldB _, s => 4096 < s.i.toNat + 3
  | .storeRegs x, s | .loadRegs x, s => 4096 < s.i.toNat + (x.toNat + 1)
  | _, _ => False

/-- The glyphs of the table in 10_state.md R31, digits 0 to 7. -/
def glyphTableLow : List (List Byte) := [
  [0xF0, 0x90, 0x90, 0x90, 0xF0], [0x20, 0x60, 0x20, 0x20, 0x70], [0xF0, 0x10, 0xF0, 0x80, 0xF0], [0xF0, 0x10, 0xF0, 0x10, 0xF0],
  [0x90, 0x90, 0xF0, 0x10, 0x10], [0xF0, 0x80, 0xF0, 0x10, 0xF0], [0xF0, 0x80, 0xF0, 0x90, 0xF0], [0xF0, 0x10, 0x20, 0x40, 0x40]]

/-- The glyphs of the table in 10_state.md R31, digits 8 to F. -/
def glyphTableHigh : List (List Byte) := [
  [0xF0, 0x90, 0xF0, 0x90, 0xF0], [0xF0, 0x90, 0xF0, 0x10, 0xF0], [0xF0, 0x90, 0xF0, 0x90, 0x90], [0xE0, 0x90, 0xE0, 0x90, 0xE0],
  [0xF0, 0x80, 0x80, 0x80, 0xF0], [0xE0, 0x90, 0x90, 0x90, 0xE0], [0xF0, 0x80, 0xF0, 0x80, 0xF0], [0xF0, 0x80, 0xF0, 0x80, 0x80]]

/-- Byte `k` of the glyph of digit `d`. -/
def glyphByte (d k : Nat) : Byte := ((glyphTableLow ++ glyphTableHigh).getD d []).getD k 0

end Sys2Proof.Claims

open Sys2Proof Sys2Proof.Machine Sys2Proof.Claims

/-! ## Reset, the step, faults -/

/-- 10_state.md R34: the values after `new()` of every field of R20. The font bytes are the parameter FONTSET (D11, log 1), the fault
and refusal marks are the spec's own modelling state (D6), and the reset of I is its reading of "registers". -/
def Obligations.ResetStateHoldsTheStatedValues : Prop :=
  (∀ r, State.reset.reg r = 0) ∧ State.reset.i = 0 ∧ State.reset.pc = 0x200#16 ∧ State.reset.sp.val = 0 ∧
  (∀ (k : Nat) (h : k < 16), State.reset.stack[k] = 0) ∧ State.reset.dt = 0 ∧ State.reset.st = 0 ∧
  (∀ (k : Nat) (h : k < 16), State.reset.keys[k] = false) ∧
  (∀ px py, px < 64 → py < 32 → State.reset.fb.pixel px py = false) ∧
  (∀ d k, d < 16 → k < 5 → State.reset.mem.read (5 * d + k) = glyphByte d k) ∧
  (∀ a, 80 ≤ a → State.reset.mem.read a = 0) ∧ State.reset.fault = none ∧ State.reset.refused = false

/-- 40_cycle.md R58: a tick runs the instruction its word decodes to, with PC advanced by 2. That a step is the head of the pending
operations, or a tick where none is pending, is the model's choice (log 4). -/
def Obligations.StepExecutesTheWordAtThePc : Prop :=
  ∀ (s : State) (i : Instr), s.fault = none → TickIsNext s → s.pc.toNat + 1 < 4096 → decode (wordAtPc s) = .ok i →
    step s = exec i { s with pc := s.pc + 2, pending := s.pending.tail }

/-- 20_memory.md R36, R37 and 60_exceptions.md R104 (D1): a fetch at PC of 4095 or more faults on its lowest out-of-range byte, with
nothing written. That the fault is a next state is deduced (log 9). -/
def Obligations.FetchOutOfRangeFaults : Prop :=
  ∀ s : State, s.fault = none → TickIsNext s → 4095 ≤ s.pc.toNat →
    step s = .next { s with
      fault := some { pc := s.pc, cause := .memoryOutOfRange (max s.pc.toNat 4096) .fetch }, pending := s.pending.tail }

/-- 30_encoding.md R53, 40_cycle.md R59: executing a word that matches no pattern raises UnimplementedOpcode with the word (D6: nothing
written, the PC unchanged). That the fault is a next state is deduced (log 9). -/
def Obligations.UnimplementedWordFaults : Prop :=
  ∀ s : State, s.fault = none → TickIsNext s → s.pc.toNat + 1 < 4096 →
    (∀ p ∈ opRows, wordAtPc s &&& p.mask ≠ p.value) →
    step s = .next { s with
      fault := some { pc := s.pc, cause := .unimplementedOpcode (wordAtPc s) }, pending := s.pending.tail }

/-- 60_exceptions.md R105 (D6): a faulted state has no step, which is the stop `stuck` in the model (log 9), but `get_display` may
still be called on it. The operation is the head of the schedule (log 4). -/
def Obligations.FaultedStateHasNoStep : Prop :=
  ∀ (s : State) (r : FaultRecord), s.fault = some r →
    (s.pending.head? ≠ some .getDisplay → step s = .fault (.stuck r)) ∧
    (s.pending.head? = some .getDisplay → step s = .next { s with pending := s.pending.tail })

/-- 60_exceptions.md R105, R106 (D6): a step that raises a fault keeps every value, PC included, and records the PC of the instruction.
That raising one is a next state is deduced (log 9), and the schedule is the model's own (log 4). -/
def Obligations.RaisedFaultKeepsEveryValue : Prop :=
  ∀ (s t : State) (r : FaultRecord), s.fault = none → step s = .next t → t.fault = some r →
    r.pc = s.pc ∧ TickIsNext s ∧ t = { s with fault := some r, pending := s.pending.tail }

/-- 60_exceptions.md R104: every instruction answers a next state from every state, and raises a fault exactly on the conditions of
the table: "No other instruction can fault" (D1, D3, D4). That the fault is a next state is deduced (log 9). -/
def Obligations.InstructionFaultsExactlyWhenListed : Prop :=
  ∀ (i : Instr) (s : State), ∃ t, exec i s = .next t ∧
    (s.fault = none → (t.fault ≠ none ↔ FaultsOn i s)) ∧ (FaultsOn i s → ∃ cause, t = faultedAt s cause)

/-- Memory keeps its canonical form (the model's own, log 8), and the PC and the stack entries their bounds (40_cycle.md R60: "every reachable PC is at most
4350", "Pushed values are at most 4096"): every step, of every host operation, keeps the invariant. -/
def Obligations.EveryStepKeepsTheInvariant : Prop := ∀ s t : State, s.Inv → step s = .next t → t.Inv

/-- The invariant holds at reset: the bounds of 40_cycle.md R60 on the values of 10_state.md R34, and the canonical form of memory, which
is the model's own choice (log 8). -/
def Obligations.ResetMeetsTheInvariant : Prop := State.reset.Inv

/-- 60_exceptions.md R105, R109: both marks are sticky, so a run that ends normally was normal at each step on the way.
That steps perform the schedule is the model's choice (log 4), and that one goes on after a refusal is deduced (log 10). -/
def Obligations.SafeRunIsSafeAtEveryPrefix : Prop :=
  ∀ (j k : Nat) (s : State), j ≤ k → SafeRun k s → SafeRun j s

/-! ## Encoding -/

/-- Decoding the encoding of any instruction gives it back, also from bytes with any bytes after them (R40, R51). -/
def Obligations.DecodeEncodeRoundTrip : Prop :=
  ∀ (i : Instr) (rest : List Byte), decode (encode i) = .ok i ∧ decodeBytes (wordBytes (encode i) ++ rest) = .ok (i, rest)

/-- Each word has one meaning: the encoding of what a word decodes to is that word. -/
def Obligations.EncodeDecodeRoundTrip : Prop := ∀ (w : Word) (i : Instr), decode w = .ok i → encode i = w

/-- 30_encoding.md R51, R53: a word decodes exactly when it matches a row of the opcode map, to an instruction of a row it matches,
and otherwise it is refused by name with the raw word. -/
def Obligations.DecodeAcceptsExactlyTheOpcodeMap : Prop :=
  ∀ w : Word, (∀ i, decode w = .ok i → i.row ∈ opRows ∧ w &&& i.row.mask = i.row.value) ∧
    ((∃ p ∈ opRows, w &&& p.mask = p.value) → ∃ i, decode w = .ok i) ∧
    ((¬ ∃ p ∈ opRows, w &&& p.mask = p.value) → decode w = .error (.unimplementedOpcode w))

/-- 30_encoding.md R52: "no 16-bit word matches two of them". -/
def Obligations.OpcodePatternsAreDisjoint : Prop :=
  opRows.length = 35 ∧ ∀ (w : Word) (p q : OpRow), p ∈ opRows → q ∈ opRows → w &&& p.mask = p.value → w &&& q.mask = q.value → p = q

/-- The table of 30_encoding.md R53: which words are unimplemented, by their first digit. -/
def Obligations.UnimplementedWordsByFirstDigit : Prop :=
  ∀ w : Word, decode w = .error (.unimplementedOpcode w) ↔
    (w.toNat / 4096 = 0x0 ∧ w.toNat ∉ [0x0000, 0x00E0, 0x00EE]) ∨
    (w.toNat / 4096 = 0x5 ∧ w.toNat % 16 ≠ 0) ∨
    (w.toNat / 4096 = 0x8 ∧ w.toNat % 16 ∈ [0x8, 0x9, 0xA, 0xB, 0xC, 0xD, 0xF]) ∨
    (w.toNat / 4096 = 0x9 ∧ w.toNat % 16 ≠ 0) ∨
    (w.toNat / 4096 = 0xE ∧ w.toNat % 256 ∉ [0x9E, 0xA1]) ∨
    (w.toNat / 4096 = 0xF ∧ w.toNat % 256 ∉ [0x07, 0x0A, 0x15, 0x18, 0x1E, 0x29, 0x33, 0x55, 0x65])

/-- Words of 95_test_vectors.md decode to the instructions they stand for there. -/
def Obligations.WordsOfTheTestVectorsDecode : Prop :=
  decode 0x1234#16 = .ok (.jp 0x234#12) ∧ decode 0x3342#16 = .ok (.seByte 0x3#4 0x42#8) ∧
  decode 0x8124#16 = .ok (.addReg 0x1#4 0x2#4) ∧ decode 0xDAB1#16 = .ok (.drw 0xA#4 0xB#4 0x1#4) ∧
  decode 0xF30A#16 = .ok (.ldVxK 0x3#4) ∧ decode 0xF265#16 = .ok (.loadRegs 0x2#4) ∧
  decode 0xE39E#16 = .ok (.skp 0x3#4) ∧ decode 0x5121#16 = .error (.unimplementedOpcode 0x5121#16)

/-! ## Control transfer and skips -/

/-- 41_control.md R69, R71 (and R67 for NOP): JP goes to NNN, JP V0 to V0 + NNN unmasked, NOP writes nothing. -/
def Obligations.JumpTargets : Prop :=
  (∀ (nnn : Addr12) (s : State),
    (∃ t, exec (.jp nnn) s = .next t ∧ t.pc.toNat = nnn.toNat ∧ Frame { pc := true } s t) ∧
    (∃ t, exec (.jpV0 nnn) s = .next t ∧ t.pc.toNat = (s.reg 0x0#4).toNat + nnn.toNat ∧ Frame { pc := true } s t) ∧
    (∃ t, exec .nop s = .next t ∧ Frame {} s t)) ∧
  DecodesTo 0xF000#16 0x1000#16 (fun w => .jp (fieldNNN w)) ∧
  DecodesTo 0xF000#16 0xB000#16 (fun w => .jpV0 (fieldNNN w)) ∧
  DecodesTo 0xFFFF#16 0x0000#16 (fun _ => .nop)

/-- 41_control.md R70: CALL pushes the address after it and goes to NNN, with fewer than 16 live entries. -/
def Obligations.CallPushesTheReturnAddress : Prop :=
  (∀ (nnn : Addr12) (s : State) (h : s.sp.val < 16),
    ∃ t, exec (.call nnn) s = .next t ∧ t.stack[s.sp.val] = s.pc ∧
      (∀ (k : Nat) (hk : k < 16), k ≠ s.sp.val → t.stack[k] = s.stack[k]) ∧
      t.sp.val = s.sp.val + 1 ∧ t.pc.toNat = nnn.toNat ∧ Frame { pc := true, stack := true } s t) ∧
  DecodesTo 0xF000#16 0x2000#16 (fun w => .call (fieldNNN w))

/-- 41_control.md R68: RET takes the last live entry as PC, used as is, and leaves the entries as they are. -/
def Obligations.ReturnPopsTheLastEntry : Prop :=
  (∀ (s : State) (k : Nat) (hk : k < 16), s.sp.val = k + 1 →
    ∃ t, exec .ret s = .next t ∧ t.pc = s.stack[k] ∧ t.sp.val = k ∧
      (∀ (j : Nat) (hj : j < 16), t.stack[j] = s.stack[j]) ∧ Frame { pc := true, stack := true } s t) ∧
  DecodesTo 0xFFFF#16 0x00EE#16 (fun _ => .ret)

/-- 41_control.md R70: "a later RET resumes after the CALL", from any state that kept the stack as the call left it. -/
def Obligations.ReturnResumesAfterTheCall : Prop :=
  ∀ (nnn : Addr12) (s t u : State), s.sp.val < 16 → exec (.call nnn) s = .next t → u.sp = t.sp → u.stack = t.stack →
    ∃ r, exec .ret u = .next r ∧ r.pc = s.pc ∧ r.sp = s.sp

/-- 41_control.md R68, R70 (D3): RET with no live entry and CALL with 16 fault and write nothing. -/
def Obligations.StackFaults : Prop :=
  ∀ (nnn : Addr12) (s : State),
    (s.sp.val = 0 → exec .ret s = .next (faultedAt s .stackUnderflow)) ∧
    (s.sp.val = 16 → exec (.call nnn) s = .next (faultedAt s .stackOverflow))

/-- 41_control.md R72 to R75: the register skips pass over one word exactly on their condition, and write nothing else. -/
def Obligations.RegisterSkips : Prop :=
  (∀ (x y : RegIdx) (nn : Byte) (s : State),
    (∃ t, exec (.seByte x nn) s = .next t ∧ t.pc = (if (s.reg x).toNat = nn.toNat then s.pc + 2 else s.pc) ∧
      Frame { pc := true } s t) ∧
    (∃ t, exec (.sneByte x nn) s = .next t ∧ t.pc = (if (s.reg x).toNat = nn.toNat then s.pc else s.pc + 2) ∧
      Frame { pc := true } s t) ∧
    (∃ t, exec (.seReg x y) s = .next t ∧ t.pc = (if (s.reg x).toNat = (s.reg y).toNat then s.pc + 2 else s.pc) ∧
      Frame { pc := true } s t) ∧
    (∃ t, exec (.sneReg x y) s = .next t ∧ t.pc = (if (s.reg x).toNat = (s.reg y).toNat then s.pc else s.pc + 2) ∧
      Frame { pc := true } s t)) ∧
  DecodesTo 0xF000#16 0x3000#16 (fun w => .seByte (fieldX w) (fieldNN w)) ∧
  DecodesTo 0xF000#16 0x4000#16 (fun w => .sneByte (fieldX w) (fieldNN w)) ∧
  DecodesTo 0xF00F#16 0x5000#16 (fun w => .seReg (fieldX w) (fieldY w)) ∧
  DecodesTo 0xF00F#16 0x9000#16 (fun w => .sneReg (fieldX w) (fieldY w))

/-- 40_cycle.md R60: all the ways the PC changes in an instruction that does not fault. -/
def Obligations.PcChangesOnlyAsListed : Prop :=
  ∀ (i : Instr) (s t : State), s.fault = none → exec i s = .next t → t.fault = none →
    t.pc = s.pc ∨
    (t.pc = s.pc + 2 ∧ ((∃ x nn, i = .seByte x nn ∨ i = .sneByte x nn) ∨ (∃ x y, i = .seReg x y ∨ i = .sneReg x y) ∨
      ∃ x, i = .skp x ∨ i = .sknp x)) ∨
    (∃ nnn, (i = .jp nnn ∨ i = .call nnn) ∧ t.pc.toNat = nnn.toNat) ∨
    (∃ nnn, i = .jpV0 nnn ∧ t.pc.toNat = (s.reg 0x0#4).toNat + nnn.toNat ∧ t.pc.toNat ≤ 4350) ∨
    (∃ (k : Nat) (hk : k < 16), i = .ret ∧ s.sp.val = k + 1 ∧ t.pc = s.stack[k]) ∨
    (∃ x, i = .ldVxK x ∧ t.pc = s.pc - 2 ∧ ∀ (k : Nat) (hk : k < 16), s.keys[k] = false)

/-- 40_cycle.md R65: every tick at a jump to its own address leaves the state unchanged (but for the operation taken from the
schedule, log 4). -/
def Obligations.SelfJumpLeavesTheStateUnchanged : Prop :=
  ∀ s : State, s.fault = none → TickIsNext s → s.pc.toNat + 1 < 4096 → (wordAtPc s).toNat = 0x1000 + s.pc.toNat →
    step s = .next { s with pending := s.pending.tail }

/-! ## Registers and ALU -/

/-- 42_alu.md R77, R78, R79: LD Vx, NN; ADD Vx, NN, which wraps and writes no flag; LD Vx, Vy. -/
def Obligations.LoadsAndAddImmediate : Prop :=
  (∀ (x y : RegIdx) (nn : Byte) (s : State),
    (∃ t, exec (.ldByte x nn) s = .next t ∧ t.reg x = nn ∧ Frame { regs := [x] } s t) ∧
    (∃ t, exec (.addByte x nn) s = .next t ∧ (t.reg x).toNat = ((s.reg x).toNat + nn.toNat) % 256 ∧
      Frame { regs := [x] } s t) ∧
    (∃ t, exec (.ldReg x y) s = .next t ∧ t.reg x = s.reg y ∧ Frame { regs := [x] } s t)) ∧
  DecodesTo 0xF000#16 0x6000#16 (fun w => .ldByte (fieldX w) (fieldNN w)) ∧
  DecodesTo 0xF000#16 0x7000#16 (fun w => .addByte (fieldX w) (fieldNN w)) ∧
  DecodesTo 0xF00F#16 0x8000#16 (fun w => .ldReg (fieldX w) (fieldY w))

/-- 42_alu.md R80, R81, R82 (D10: VF is not reset): the logic operations, bit by bit. -/
def Obligations.BitwiseLogic : Prop :=
  (∀ (x y : RegIdx) (s : State),
    (∃ t, exec (.orReg x y) s = .next t ∧
      (∀ k, k < 8 → (t.reg x).getLsbD k = ((s.reg x).getLsbD k || (s.reg y).getLsbD k)) ∧ Frame { regs := [x] } s t) ∧
    (∃ t, exec (.andReg x y) s = .next t ∧
      (∀ k, k < 8 → (t.reg x).getLsbD k = ((s.reg x).getLsbD k && (s.reg y).getLsbD k)) ∧ Frame { regs := [x] } s t) ∧
    (∃ t, exec (.xorReg x y) s = .next t ∧
      (∀ k, k < 8 → (t.reg x).getLsbD k = ((s.reg x).getLsbD k ^^ (s.reg y).getLsbD k)) ∧ Frame { regs := [x] } s t)) ∧
  DecodesTo 0xF00F#16 0x8001#16 (fun w => .orReg (fieldX w) (fieldY w)) ∧
  DecodesTo 0xF00F#16 0x8002#16 (fun w => .andReg (fieldX w) (fieldY w)) ∧
  DecodesTo 0xF00F#16 0x8003#16 (fun w => .xorReg (fieldX w) (fieldY w))

/-- 42_alu.md R83: the sum modulo 256 and the carry. With X = F, VF ends as the flag (the spec's decision D5, log 2). -/
def Obligations.AddWithCarry : Prop :=
  (∀ (x y : RegIdx) (s : State),
    ∃ t, exec (.addReg x y) s = .next t ∧
      (x ≠ 0xF#4 → (t.reg x).toNat = ((s.reg x).toNat + (s.reg y).toNat) % 256) ∧
      t.reg 0xF#4 = (if (s.reg x).toNat + (s.reg y).toNat ≥ 256 then 1 else 0) ∧ Frame { regs := [x, 0xF#4] } s t) ∧
  DecodesTo 0xF00F#16 0x8004#16 (fun w => .addReg (fieldX w) (fieldY w))

/-- 42_alu.md R84, R86: the difference modulo 256, and VF = 1 exactly when there is no borrow. With X = F, VF ends as the flag (D5,
log 2). -/
def Obligations.SubtractWithBorrow : Prop :=
  (∀ (x y : RegIdx) (s : State),
    (∃ t, exec (.subReg x y) s = .next t ∧
      (x ≠ 0xF#4 → t.reg x = s.reg x - s.reg y) ∧
      t.reg 0xF#4 = (if (s.reg x).toNat < (s.reg y).toNat then 0 else 1) ∧ Frame { regs := [x, 0xF#4] } s t) ∧
    (∃ t, exec (.subnReg x y) s = .next t ∧
      (x ≠ 0xF#4 → t.reg x = s.reg y - s.reg x) ∧
      t.reg 0xF#4 = (if (s.reg y).toNat < (s.reg x).toNat then 0 else 1) ∧ Frame { regs := [x, 0xF#4] } s t)) ∧
  DecodesTo 0xF00F#16 0x8005#16 (fun w => .subReg (fieldX w) (fieldY w)) ∧
  DecodesTo 0xF00F#16 0x8007#16 (fun w => .subnReg (fieldX w) (fieldY w))

/-- 42_alu.md R85, R87: shifts of Vx by one bit, the bit shifted out in VF; Vy is not read. With X = F, VF ends as the flag (D5,
log 2). -/
def Obligations.ShiftsByOneBit : Prop :=
  (∀ (x y : RegIdx) (s : State),
    (∃ t, exec (.shr x y) s = .next t ∧ (x ≠ 0xF#4 → t.reg x = s.reg x >>> 1) ∧
      t.reg 0xF#4 = (if (s.reg x).getLsbD 0 then 1 else 0) ∧ Frame { regs := [x, 0xF#4] } s t) ∧
    (∃ t, exec (.shl x y) s = .next t ∧ (x ≠ 0xF#4 → t.reg x = s.reg x <<< 1) ∧
      t.reg 0xF#4 = (if (s.reg x).getLsbD 7 then 1 else 0) ∧ Frame { regs := [x, 0xF#4] } s t)) ∧
  DecodesTo 0xF00F#16 0x8006#16 (fun w => .shr (fieldX w) (fieldY w)) ∧
  DecodesTo 0xF00F#16 0x800E#16 (fun w => .shl (fieldX w) (fieldY w))

/-- 42_alu.md R88 (D15): RND writes a fresh draw masked by NN, so no bit outside NN. The draw is the model's free value
(`Config.randomByte`, log 3), and the next RND takes another. -/
def Obligations.RandomByteIsMasked : Prop :=
  (∀ (x : RegIdx) (nn : Byte) (s : State),
    ∃ t, exec (.rnd x nn) s = .next t ∧ t.reg x = Config.randomByte s.draws &&& nn ∧
      (∀ k, nn.getLsbD k = false → (t.reg x).getLsbD k = false) ∧ (t.reg x).toNat ≤ nn.toNat ∧
      t.draws = s.draws + 1 ∧ Frame { regs := [x], draws := true } s t) ∧
  DecodesTo 0xF000#16 0xC000#16 (fun w => .rnd (fieldX w) (fieldNN w))

/-- 10_state.md R21, R22: an instruction changes only the registers it names as destination, VF for the flag instructions and DXYN, and
V0 to Vx for FX65. -/
def Obligations.RegistersChangeOnlyAsNamed : Prop :=
  ∀ (i : Instr) (s t : State) (r : RegIdx), exec i s = .next t → t.reg r ≠ s.reg r → MayWriteReg i r

/-! ## Index register and memory -/

/-- 43_index_memory.md R89, R90: LD I, NNN and ADD I, Vx, which wraps at 16 bits and writes no flag. -/
def Obligations.IndexLoadAndAdd : Prop :=
  (∀ (x : RegIdx) (nnn : Addr12) (s : State),
    (∃ t, exec (.ldI nnn) s = .next t ∧ t.i.toNat = nnn.toNat ∧ Frame { index := true } s t) ∧
    (∃ t, exec (.addI x) s = .next t ∧ t.i.toNat = (s.i.toNat + (s.reg x).toNat) % 65536 ∧
      Frame { index := true } s t)) ∧
  DecodesTo 0xF000#16 0xA000#16 (fun w => .ldI (fieldNNN w)) ∧
  DecodesTo 0xF0FF#16 0xF01E#16 (fun w => .addI (fieldX w))

/-- 43_index_memory.md R91, 10_state.md R31: FX29 sets I to 5 times Vx, unmasked; and where the font is as reset left it, a digit's
glyph stands there. The glyph bytes are the parameter FONTSET (D11, log 1). -/
def Obligations.GlyphAddressAndBytes : Prop :=
  (∀ (x : RegIdx) (s : State),
    ∃ t, exec (.ldF x) s = .next t ∧ t.i.toNat = 5 * (s.reg x).toNat ∧ Frame { index := true } s t ∧
      ((s.reg x).toNat < 16 → (∀ a, a < 80 → s.mem.read a = State.reset.mem.read a) →
        ∀ k, k < 5 → t.mem.read (t.i.toNat + k) = glyphByte (s.reg x).toNat k)) ∧
  DecodesTo 0xF0FF#16 0xF029#16 (fun w => .ldF (fieldX w))

/-- 43_index_memory.md R92: FX33 stores the hundreds, tens and ones of Vx at I, I+1, I+2, where all three are in range; I is unchanged
(D9) and so is every other byte. The form of memory it needs is the model's own choice (log 8). -/
def Obligations.DecimalDigitsStored : Prop :=
  (∀ (x : RegIdx) (s : State), s.mem.wf → s.i.toNat + 2 < 4096 →
    ∃ t, exec (.ldB x) s = .next t ∧
      (t.mem.read s.i.toNat).toNat = (s.reg x).toNat / 100 ∧
      (t.mem.read (s.i.toNat + 1)).toNat = (s.reg x).toNat / 10 % 10 ∧
      (t.mem.read (s.i.toNat + 2)).toNat = (s.reg x).toNat % 10 ∧
      (∀ a, a < s.i.toNat ∨ s.i.toNat + 3 ≤ a → t.mem.read a = s.mem.read a) ∧ Frame { memory := true } s t) ∧
  DecodesTo 0xF0FF#16 0xF033#16 (fun w => .ldB (fieldX w))

/-- 43_index_memory.md R93: FX55 stores V0 to Vx at I to I+X, where all are in range; I is unchanged (D9) and so is every other byte.
The form of memory it needs is the model's own choice (log 8). -/
def Obligations.RegisterBlockStored : Prop :=
  (∀ (x : RegIdx) (s : State), s.mem.wf → s.i.toNat + x.toNat < 4096 →
    ∃ t, exec (.storeRegs x) s = .next t ∧
      (∀ r : RegIdx, r.toNat ≤ x.toNat → t.mem.read (s.i.toNat + r.toNat) = s.reg r) ∧
      (∀ a, a < s.i.toNat ∨ s.i.toNat + x.toNat < a → t.mem.read a = s.mem.read a) ∧ Frame { memory := true } s t) ∧
  DecodesTo 0xF0FF#16 0xF055#16 (fun w => .storeRegs (fieldX w))

/-- 43_index_memory.md R94: FX65 loads V0 to Vx from I to I+X, where all are in range; registers above X and I are unchanged (D9). -/
def Obligations.RegisterBlockLoaded : Prop :=
  (∀ (x : RegIdx) (s : State), s.i.toNat + x.toNat < 4096 →
    ∃ t, exec (.loadRegs x) s = .next t ∧
      (∀ r : RegIdx, t.reg r = if r.toNat ≤ x.toNat then s.mem.read (s.i.toNat + r.toNat) else s.reg r) ∧
      Frame { regs := (List.range 16).map (BitVec.ofNat 4) } s t) ∧
  DecodesTo 0xF0FF#16 0xF065#16 (fun w => .loadRegs (fieldX w))

/-- 20_memory.md R36, R37, 60_exceptions.md R106 (D1, D2, D7): an access through I of which some byte is at 4096 or more faults with
the lowest such address, and writes nothing. -/
def Obligations.DataAccessOutOfRangeFaults : Prop :=
  ∀ (x y : RegIdx) (n : Nibble) (s : State),
    (4096 ≤ s.i.toNat + 2 → exec (.ldB x) s = .next (faultedAt s (.memoryOutOfRange (max s.i.toNat 4096) .write))) ∧
    (4096 ≤ s.i.toNat + x.toNat →
      exec (.storeRegs x) s = .next (faultedAt s (.memoryOutOfRange (max s.i.toNat 4096) .write)) ∧
      exec (.loadRegs x) s = .next (faultedAt s (.memoryOutOfRange (max s.i.toNat 4096) .read))) ∧
    (n.toNat > 0 ∧ 4096 ≤ s.i.toNat + n.toNat - 1 →
      exec (.drw x y n) s = .next (faultedAt s (.memoryOutOfRange (max s.i.toNat 4096) .read)))

/-- The model's own form of memory, a canonical list (log 8, DESIGN CHOICE; no rule of the spec): two memories in that form that read
the same at every address are the same data. What they hold is the byte array of 20_memory.md R36. -/
def Obligations.CanonicalMemoriesAreEqualWhenTheyReadEqual : Prop :=
  ∀ m n : Memory, m.wf → n.wf → (∀ a, m.read a = n.read a) → m = n

/-! ## Display -/

/-- 44_display.md R95: CLS turns every pixel off and writes nothing else, VF included. -/
def Obligations.ClearScreen : Prop :=
  (∀ s : State, ∃ t, exec .cls s = .next t ∧ (∀ px py, px < 64 → py < 32 → t.fb.pixel px py = false) ∧
    Frame { screen := true } s t) ∧
  DecodesTo 0xFFFF#16 0x00E0#16 (fun _ => .cls)

/-- 44_display.md R96: the drawing loop flips exactly the pixels the sprite's 1 bits fall on, with wrap, and VF is 1 exactly when one of
them was on; also with N = 0, which draws nothing (D8). -/
def Obligations.DrawFlipsTheSpritePixels : Prop :=
  (∀ (x y : RegIdx) (n : Nibble) (s : State), n = 0 ∨ s.i.toNat + n.toNat ≤ 4096 →
    ∃ t, exec (.drw x y n) s = .next t ∧
      (∀ px py, px < 64 → py < 32 →
        (SpriteHits s x y n px py → t.fb.pixel px py = !(s.fb.pixel px py)) ∧
        (¬ SpriteHits s x y n px py → t.fb.pixel px py = s.fb.pixel px py)) ∧
      ((∃ px py, SpriteHits s x y n px py ∧ s.fb.pixel px py = true) → t.reg 0xF#4 = 1) ∧
      ((¬ ∃ px py, SpriteHits s x y n px py ∧ s.fb.pixel px py = true) → t.reg 0xF#4 = 0) ∧
      Frame { regs := [0xF#4], screen := true } s t) ∧
  DecodesTo 0xF000#16 0xD000#16 (fun w => .drw (fieldX w) (fieldY w) (fieldN w))

/-! ## Keys and timers -/

/-- 45_keys_timers.md R97, R98: the key skips test the level of the key that Vx names, for Vx from 0 to 15. -/
def Obligations.KeySkips : Prop :=
  (∀ (x : RegIdx) (s : State) (h : (s.reg x).toNat < 16),
    (∃ t, exec (.skp x) s = .next t ∧ t.pc = (if s.keys[(s.reg x).toNat] = true then s.pc + 2 else s.pc) ∧
      Frame { pc := true } s t) ∧
    (∃ t, exec (.sknp x) s = .next t ∧ t.pc = (if s.keys[(s.reg x).toNat] = true then s.pc else s.pc + 2) ∧
      Frame { pc := true } s t)) ∧
  DecodesTo 0xF0FF#16 0xE09E#16 (fun w => .skp (fieldX w)) ∧
  DecodesTo 0xF0FF#16 0xE0A1#16 (fun w => .sknp (fieldX w))

/-- 45_keys_timers.md R97, R98 (D4): a key index of 16 or more faults with the value of Vx. -/
def Obligations.KeyIndexFaults : Prop :=
  ∀ (x : RegIdx) (s : State), 16 ≤ (s.reg x).toNat →
    exec (.skp x) s = .next (faultedAt s (.keyIndexOutOfRange (s.reg x))) ∧
    exec (.sknp x) s = .next (faultedAt s (.keyIndexOutOfRange (s.reg x)))

/-- 45_keys_timers.md R99: the least pressed key goes to Vx; with none pressed, PC is rewound by 2 and nothing else is written. -/
def Obligations.KeyWaitTakesTheLeastPressedKey : Prop :=
  (∀ (x : RegIdx) (s : State),
    (∀ (k : Nat) (hk : k < 16), s.keys[k] = true → (∀ (j : Nat) (hj : j < k), s.keys[j] = false) →
      ∃ t, exec (.ldVxK x) s = .next t ∧ (t.reg x).toNat = k ∧ Frame { regs := [x] } s t) ∧
    ((∀ (k : Nat) (hk : k < 16), s.keys[k] = false) →
      ∃ t, exec (.ldVxK x) s = .next t ∧ t.pc = s.pc - 2 ∧ Frame { pc := true } s t)) ∧
  DecodesTo 0xF0FF#16 0xF00A#16 (fun w => .ldVxK (fieldX w))

/-- 40_cycle.md R66: a tick on a waiting FX0A is a complete instruction that leaves the whole state as it is (but for the operation
taken from the schedule, log 4), so that it is fetched again. -/
def Obligations.WaitingTickLeavesTheStateUnchanged : Prop :=
  ∀ (s : State) (x : RegIdx), s.fault = none → TickIsNext s → s.pc.toNat + 1 < 4096 →
    wordAtPc s &&& 0xF0FF#16 = 0xF00A#16 → (∀ (k : Nat) (hk : k < 16), s.keys[k] = false) →
    step s = .next { s with pending := s.pending.tail }

/-- 45_keys_timers.md R100, R101: FX07 reads DT and FX15 writes it. -/
def Obligations.DelayTimerAccess : Prop :=
  (∀ (x : RegIdx) (s : State),
    (∃ t, exec (.ldVxDt x) s = .next t ∧ t.reg x = s.dt ∧ Frame { regs := [x] } s t) ∧
    (∃ t, exec (.ldDtVx x) s = .next t ∧ t.dt = s.reg x ∧ Frame { dt := true } s t)) ∧
  DecodesTo 0xF0FF#16 0xF007#16 (fun w => .ldVxDt (fieldX w)) ∧
  DecodesTo 0xF0FF#16 0xF015#16 (fun w => .ldDtVx (fieldX w))

/-- 45_keys_timers.md R102, 10_state.md R28: FX18 writes ST, and the tone predicate is on exactly when Vx was not 0. -/
def Obligations.SoundTimerAccess : Prop :=
  (∀ (x : RegIdx) (s : State),
    ∃ t, exec (.ldStVx x) s = .next t ∧ t.st = s.reg x ∧ (t.tone = true ↔ 0 < (s.reg x).toNat) ∧ Frame { st := true } s t) ∧
  DecodesTo 0xF0FF#16 0xF018#16 (fun w => .ldStVx (fieldX w))

/-- 10_state.md R23, R25, R27 to R29, 20_memory.md R36, 60_exceptions.md R114: the only instructions that change I, SP, the stack, the
screen, memory, DT and ST; no instruction changes the keys, the refusal mark or the pending operations, and only CXNN draws. -/
def Obligations.StateChangesOnlyByTheNamedInstructions : Prop :=
  ∀ (i : Instr) (s t : State), exec i s = .next t →
    (t.i ≠ s.i → (∃ nnn, i = .ldI nnn) ∨ ∃ x, i = .addI x ∨ i = .ldF x) ∧
    (t.sp ≠ s.sp → i = .ret ∨ ∃ nnn, i = .call nnn) ∧
    (t.stack ≠ s.stack → ∃ nnn, i = .call nnn) ∧
    (t.fb ≠ s.fb → i = .cls ∨ ∃ x y n, i = .drw x y n) ∧
    (t.mem ≠ s.mem → ∃ x, i = .ldB x ∨ i = .storeRegs x) ∧
    (t.dt ≠ s.dt → ∃ x, i = .ldDtVx x) ∧ (t.st ≠ s.st → ∃ x, i = .ldStVx x) ∧
    t.keys = s.keys ∧ t.refused = s.refused ∧ t.pending = s.pending ∧ (t.draws ≠ s.draws → ∃ x nn, i = .rnd x nn)

/-! ## Host operations -/

/-- 60_exceptions.md R112: a timer tick lowers each timer by 1 where it is above 0, and writes nothing else. On a faulted state it
has no step (R105, the spec's decision D6), which is the stop `stuck` in the model (log 9). -/
def Obligations.TimerTick : Prop :=
  ∀ s : State,
    (s.fault = none → ∃ t, perform .tickTimers s = .next t ∧ t.dt.toNat = s.dt.toNat - 1 ∧ t.st.toNat = s.st.toNat - 1 ∧
      Frame { dt := true, st := true } s t) ∧
    (∀ r, s.fault = some r → perform .tickTimers s = .fault (.stuck r))

/-- 60_exceptions.md R113: after `n` timer ticks a timer at `d` holds `d - n`, and never falls below 0. That the ticks are performed
one a step from the schedule is the model's choice (log 4). -/
def Obligations.TimersCountDownToZero : Prop :=
  ∀ (n : Nat) (s : State) (rest : List HostOp), s.fault = none → s.pending = List.replicate n .tickTimers ++ rest →
    ∃ t, Sys2Proof.core.run n s = .next t ∧ t.dt.toNat = s.dt.toNat - n ∧ t.st.toNat = s.st.toNat - n ∧
      t.pending = rest ∧ t.pc = s.pc ∧ t.v = s.v ∧ t.i = s.i ∧ t.keys = s.keys ∧ t.fb = s.fb ∧ t.mem = s.mem ∧ t.fault = none

/-- 40_cycle.md R62: `set_key` updates one key flag and writes nothing else; a key outside 0 to 15 is refused (D13). -/
def Obligations.SetKeyWritesOneFlag : Prop :=
  ∀ (s : State) (k : Nat) (pressed : Bool), s.fault = none →
    (∀ hk : k < 16, ∃ t, perform (.setKey k pressed) s = .next t ∧ t.keys[k] = pressed ∧
      (∀ (j : Nat) (hj : j < 16), j ≠ k → t.keys[j] = s.keys[j]) ∧ { t with keys := s.keys } = s) ∧
    (16 ≤ k → perform (.setKey k pressed) s = .next { s with refused := true })

/-- 70_reset_and_hazards.md R119: `load` copies the bytes verbatim from 0x200 on and writes nothing else; more than 3584 bytes are
refused whole (D12). The canonical form of memory, which it needs and keeps, is the model's own choice (log 8). -/
def Obligations.LoadCopiesTheProgram : Prop :=
  ∀ (s : State) (b : List Byte), s.fault = none → s.mem.wf →
    (b.length ≤ 3584 → ∃ t, perform (.load b) s = .next t ∧
      (∀ (k : Nat) (hk : k < b.length), t.mem.read (0x200 + k) = b[k]) ∧
      (∀ a, a < 0x200 ∨ 0x200 + b.length ≤ a → t.mem.read a = s.mem.read a) ∧ t.mem.wf ∧ { t with mem := s.mem } = s) ∧
    (3584 < b.length → perform (.load b) s = .next { s with refused := true })

/-- 70_reset_and_hazards.md R118: `reset()` gives the state of `new()`, except `refused`, which keeps its value. The model's own two
fields are kept as well (log 5). -/
def Obligations.HostResetGivesTheNewState : Prop :=
  ∀ s : State, s.fault = none → ∃ t, perform .reset s = .next t ∧ t.refused = s.refused ∧ t.draws = s.draws ∧
    t.pending = s.pending ∧ { t with refused := false, draws := 0, pending := [] } = State.new

/-- 40_cycle.md R63, 10_state.md R30: `get_display` gives element `x + 64*y` for FB[x, y], writes nothing, and may be called on any
state, a faulted one too (D6). -/
def Obligations.GetDisplayIsRowMajor : Prop :=
  ∀ s : State, perform .getDisplay s = .next s ∧
    ∀ (x y : Nat) (_ : x < 64) (_ : y < 32) (h : x + 64 * y < 2048), s.getDisplay[x + 64 * y] = s.fb.pixel x y

/-- 60_exceptions.md R109: `refused` is set exactly by a `load` of more than 3584 bytes or a `set_key` outside 0 to 15 (the spec's
decisions D12, D13), and never cleared. That the operation of a step is the head of the pending ones is the model's choice (log 4). -/
def Obligations.RefusalOnlyByABrokenPrecondition : Prop :=
  ∀ s t : State, step s = .next t →
    (t.refused = true ↔ s.refused = true ∨ (∃ b rest, s.pending = .load b :: rest ∧ 3584 < b.length) ∨
      ∃ k p rest, s.pending = .setKey k p :: rest ∧ 16 ≤ k)

/-- 40_cycle.md R57, R64: each step is one whole host operation. That it is the head of the pending operations, taken from them, and
`tick()` where none is pending, is the model's choice (log 4). The statements about `perform` reach a step through this one. -/
def Obligations.StepPerformsTheNextOperation : Prop :=
  ∀ s : State,
    (∀ (op : HostOp) (rest : List HostOp), s.pending = op :: rest → step s = perform op { s with pending := rest }) ∧
    (s.pending = [] → step s = perform .tick s)
end

