-- ==== Sys2Proof/Laws/Decode.lean ====
section
/-! SUPPORT. Laws/Decode.lean: the fields of a word as numbers, the fields of a word that was built from them, and what a mask says
about the digits. -/

namespace Sys2Proof

/-! ### Each field as a number -/

theorem toNat_digit1 (w : Word) : (digit1 w).toNat = w.toNat / 4096 := by
  have := w.isLt
  simp only [digit1, BitVec.extractLsb'_toNat, Nat.shiftRight_eq_div_pow]; omega

theorem toNat_digit2 (w : Word) : (digit2 w).toNat = w.toNat / 256 % 16 := by
  simp only [digit2, BitVec.extractLsb'_toNat, Nat.shiftRight_eq_div_pow]

theorem toNat_digit3 (w : Word) : (digit3 w).toNat = w.toNat / 16 % 16 := by
  simp only [digit3, BitVec.extractLsb'_toNat, Nat.shiftRight_eq_div_pow]

theorem toNat_digit4 (w : Word) : (digit4 w).toNat = w.toNat % 16 := by
  simp only [digit4, BitVec.extractLsb'_toNat, Nat.shiftRight_eq_div_pow]; omega

theorem toNat_lowByte (w : Word) : (lowByte w).toNat = w.toNat % 256 := by
  simp only [lowByte, BitVec.extractLsb'_toNat, Nat.shiftRight_eq_div_pow]; omega

theorem toNat_low12 (w : Word) : (low12 w).toNat = w.toNat % 4096 := by
  simp only [low12, BitVec.extractLsb'_toNat, Nat.shiftRight_eq_div_pow]; omega

/-! ### Each built word as a number, and its fields -/

section Built

variable (d x y n : Nibble) (nn : Byte) (nnn : Addr12)

theorem toNat_ofDigits :
    (ofDigits d x y n).toNat = d.toNat * 4096 + x.toNat * 256 + y.toNat * 16 + n.toNat := by
  have := d.isLt; have := x.isLt; have := y.isLt; have := n.isLt
  simp only [ofDigits, BitVec.toNat_ofNat]; omega

theorem toNat_ofXNN : (ofXNN d x nn).toNat = d.toNat * 4096 + x.toNat * 256 + nn.toNat := by
  have := d.isLt; have := x.isLt; have := nn.isLt
  simp only [ofXNN, BitVec.toNat_ofNat]; omega

theorem toNat_ofNNN : (ofNNN d nnn).toNat = d.toNat * 4096 + nnn.toNat := by
  have := d.isLt; have := nnn.isLt
  simp only [ofNNN, BitVec.toNat_ofNat]; omega

@[simp] theorem digit1_ofDigits : digit1 (ofDigits d x y n) = d := by
  have := d.isLt; have := x.isLt; have := y.isLt; have := n.isLt
  apply BitVec.eq_of_toNat_eq; rw [toNat_digit1, toNat_ofDigits]; omega

@[simp] theorem digit2_ofDigits : digit2 (ofDigits d x y n) = x := by
  have := d.isLt; have := x.isLt; have := y.isLt; have := n.isLt
  apply BitVec.eq_of_toNat_eq; rw [toNat_digit2, toNat_ofDigits]; omega

@[simp] theorem digit3_ofDigits : digit3 (ofDigits d x y n) = y := by
  have := d.isLt; have := x.isLt; have := y.isLt; have := n.isLt
  apply BitVec.eq_of_toNat_eq; rw [toNat_digit3, toNat_ofDigits]; omega

@[simp] theorem digit4_ofDigits : digit4 (ofDigits d x y n) = n := by
  have := d.isLt; have := x.isLt; have := y.isLt; have := n.isLt
  apply BitVec.eq_of_toNat_eq; rw [toNat_digit4, toNat_ofDigits]; omega

@[simp] theorem digit1_ofXNN : digit1 (ofXNN d x nn) = d := by
  have := d.isLt; have := x.isLt; have := nn.isLt
  apply BitVec.eq_of_toNat_eq; rw [toNat_digit1, toNat_ofXNN]; omega

@[simp] theorem digit2_ofXNN : digit2 (ofXNN d x nn) = x := by
  have := d.isLt; have := x.isLt; have := nn.isLt
  apply BitVec.eq_of_toNat_eq; rw [toNat_digit2, toNat_ofXNN]; omega

@[simp] theorem lowByte_ofXNN : lowByte (ofXNN d x nn) = nn := by
  have := d.isLt; have := x.isLt; have := nn.isLt
  apply BitVec.eq_of_toNat_eq; rw [toNat_lowByte, toNat_ofXNN]; omega

@[simp] theorem digit1_ofNNN : digit1 (ofNNN d nnn) = d := by
  have := d.isLt; have := nnn.isLt
  apply BitVec.eq_of_toNat_eq; rw [toNat_digit1, toNat_ofNNN]; omega

@[simp] theorem low12_ofNNN : low12 (ofNNN d nnn) = nnn := by
  have := d.isLt; have := nnn.isLt
  apply BitVec.eq_of_toNat_eq; rw [toNat_low12, toNat_ofNNN]; omega

end Built

/-! ### A word from its own fields -/

theorem ofDigits_digits (w : Word) : ofDigits (digit1 w) (digit2 w) (digit3 w) (digit4 w) = w := by
  apply BitVec.eq_of_toNat_eq
  rw [toNat_ofDigits, toNat_digit1, toNat_digit2, toNat_digit3, toNat_digit4]; omega

theorem ofXNN_fields (w : Word) : ofXNN (digit1 w) (digit2 w) (lowByte w) = w := by
  apply BitVec.eq_of_toNat_eq
  rw [toNat_ofXNN, toNat_digit1, toNat_digit2, toNat_lowByte]; omega

theorem ofNNN_fields (w : Word) : ofNNN (digit1 w) (low12 w) = w := by
  apply BitVec.eq_of_toNat_eq
  rw [toNat_ofNNN, toNat_digit1, toNat_low12]; omega

/-- Two words with the same digits are the same word. -/
theorem eq_of_digits {w u : Word} (h1 : digit1 w = digit1 u) (h2 : digit2 w = digit2 u) (h3 : digit3 w = digit3 u)
    (h4 : digit4 w = digit4 u) : w = u := by
  rw [← ofDigits_digits w, ← ofDigits_digits u, h1, h2, h3, h4]

/-! ### Masks, digit by digit -/

theorem digit1_and (w m : Word) : digit1 (w &&& m) = digit1 w &&& digit1 m := by
  apply BitVec.eq_of_getLsbD_eq; intro i hi; simp [digit1, hi]

theorem digit2_and (w m : Word) : digit2 (w &&& m) = digit2 w &&& digit2 m := by
  apply BitVec.eq_of_getLsbD_eq; intro i hi; simp [digit2, hi]

theorem digit3_and (w m : Word) : digit3 (w &&& m) = digit3 w &&& digit3 m := by
  apply BitVec.eq_of_getLsbD_eq; intro i hi; simp [digit3, hi]

theorem digit4_and (w m : Word) : digit4 (w &&& m) = digit4 w &&& digit4 m := by
  apply BitVec.eq_of_getLsbD_eq; intro i hi; simp [digit4, hi]

/-- A masked word is a value exactly when each digit is. -/
theorem and_eq_iff_digits (w m u : Word) :
    w &&& m = u ↔ digit1 w &&& digit1 m = digit1 u ∧ digit2 w &&& digit2 m = digit2 u ∧
      digit3 w &&& digit3 m = digit3 u ∧ digit4 w &&& digit4 m = digit4 u := by
  rw [← digit1_and, ← digit2_and, ← digit3_and, ← digit4_and]
  exact ⟨fun h => by simp [h], fun ⟨h1, h2, h3, h4⟩ => eq_of_digits h1 h2 h3 h4⟩

theorem nibble_and_F (d : Nibble) : d &&& 0xF#4 = d := by revert d; decide

theorem nibble_and_0 (d : Nibble) : d &&& 0x0#4 = 0x0#4 := by revert d; decide

/-- A fixed first digit (masks F000). -/
theorem and_F000 (w : Word) (d : Nibble) : w &&& 0xF000#16 = ofDigits d 0 0 0 ↔ digit1 w = d := by
  rw [and_eq_iff_digits]
  simp [show digit1 0xF000#16 = 0xF#4 by decide, show digit2 0xF000#16 = 0x0#4 by decide,
    show digit3 0xF000#16 = 0x0#4 by decide, show digit4 0xF000#16 = 0x0#4 by decide, nibble_and_F]

/-- Fixed first and last digits (masks F00F). -/
theorem and_F00F (w : Word) (d n : Nibble) :
    w &&& 0xF00F#16 = ofDigits d 0 0 n ↔ digit1 w = d ∧ digit4 w = n := by
  rw [and_eq_iff_digits]
  simp [show digit1 0xF00F#16 = 0xF#4 by decide, show digit2 0xF00F#16 = 0x0#4 by decide,
    show digit3 0xF00F#16 = 0x0#4 by decide, show digit4 0xF00F#16 = 0xF#4 by decide, nibble_and_F]

/-- A fixed first digit and low byte (masks F0FF). -/
theorem and_F0FF (w : Word) (d y n : Nibble) :
    w &&& 0xF0FF#16 = ofDigits d 0 y n ↔ digit1 w = d ∧ digit3 w = y ∧ digit4 w = n := by
  rw [and_eq_iff_digits]
  simp [show digit1 0xF0FF#16 = 0xF#4 by decide, show digit2 0xF0FF#16 = 0x0#4 by decide,
    show digit3 0xF0FF#16 = 0xF#4 by decide, show digit4 0xF0FF#16 = 0xF#4 by decide, nibble_and_F]

/-- The low byte is its two digits. -/
theorem toNat_lowByte_digits (w : Word) : (lowByte w).toNat = (digit3 w).toNat * 16 + (digit4 w).toNat := by
  rw [toNat_lowByte, toNat_digit3, toNat_digit4]; omega

theorem digit3_ofXNN (d x : Nibble) (nn : Byte) : (digit3 (ofXNN d x nn)).toNat = nn.toNat / 16 := by
  have := d.isLt; have := x.isLt; have := nn.isLt
  rw [toNat_digit3, toNat_ofXNN]; omega

theorem digit4_ofXNN (d x : Nibble) (nn : Byte) : (digit4 (ofXNN d x nn)).toNat = nn.toNat % 16 := by
  have := d.isLt; have := x.isLt; have := nn.isLt
  rw [toNat_digit4, toNat_ofXNN]; omega

end Sys2Proof
end

