-- ==== Sys2Proof/Laws/Memory.lean ====
section
/-! SUPPORT. Laws/Memory.lean: reading after writing, and that every memory operation keeps the canonical form, under which equal
reads are equal memories. -/

namespace Sys2Proof.Machine

namespace Memory

theorem read_append_cellFor (a : Nat) (x : Byte) (m : Memory) (b : Nat) (h : x = unlisted a → read m a = unlisted a) :
    read (cellFor a x ++ m) b = if b = a then x else read m b := by
  unfold cellFor
  by_cases hx : x = unlisted a
  · rw [if_pos hx]
    by_cases hb : b = a
    · subst hb; simp [h hx, hx]
    · simp [hb]
  · rw [if_neg hx]
    by_cases hb : b = a
    · subst hb; simp [read]
    · simp [read, hb, Ne.symm hb]

/-- An address that is below every listed one reads as unlisted. -/
theorem read_of_below (m : Memory) (a : Nat) (h : ∀ c ∈ m, a < c.1) : read m a = unlisted a := by
  induction m with
  | nil => rfl
  | cons c rest ih =>
    have h1 : a < c.1 := h c (by simp)
    simp only [read]
    rw [if_neg (by omega), ih (fun d hd => h d (by simp [hd]))]

/-- Reading after a write: the written address reads as written, every other as before. -/
theorem read_write (m : Memory) (hm : m.Pairwise (fun c d => c.1 < d.1)) (a b : Nat) (x : Byte) :
    read (write m a x) b = if b = a then x else read m b := by
  induction m with
  | nil => simpa [write] using read_append_cellFor a x [] b (fun _ => rfl)
  | cons c rest ih =>
    obtain ⟨p, y⟩ := c
    obtain ⟨hlt, hrest⟩ := List.pairwise_cons.mp hm
    unfold write
    split
    · next h =>
      refine read_append_cellFor a x _ b fun _ => read_of_below _ a fun c hc => ?_
      rcases List.mem_cons.mp hc with rfl | hc
      · exact h
      · exact Nat.lt_trans h (hlt c hc)
    · split
      · next h =>
        subst h
        rw [read_append_cellFor a x rest b fun _ => read_of_below rest a fun c hc => hlt c hc]
        by_cases hb : b = a
        · simp [hb]
        · simp [hb, read, Ne.symm hb]
      · next h1 h2 =>
        simp only [read, ih hrest]
        by_cases hp : p = b
        · simp [hp, show ¬ b = a from fun e => h2 (by omega)]
        · simp [hp]

theorem mem_cellFor {a : Nat} {x : Byte} {c : Host.Cell} (h : c ∈ cellFor a x) : c = (a, x) ∧ x ≠ unlisted a := by
  unfold cellFor at h
  split at h
  · simp at h
  · next hx => exact ⟨by simpa using h, hx⟩

/-- A cell of the written memory was there before, or is the written one. -/
theorem mem_write {m : Memory} {a : Nat} {x : Byte} {c : Host.Cell} (h : c ∈ write m a x) :
    c ∈ m ∨ (c = (a, x) ∧ x ≠ unlisted a) := by
  induction m with
  | nil => exact .inr (mem_cellFor h)
  | cons d rest ih =>
    obtain ⟨p, y⟩ := d
    unfold write at h
    split at h
    · rcases List.mem_append.mp h with h | h
      · exact .inr (mem_cellFor h)
      · exact .inl h
    · split at h
      · rcases List.mem_append.mp h with h | h
        · exact .inr (mem_cellFor h)
        · exact .inl (by simp [h])
      · rcases List.mem_cons.mp h with rfl | h
        · exact .inl (by simp)
        · exact (ih h).imp (by simp +contextual) id

theorem pairwise_cellFor_append {a : Nat} {x : Byte} {m : Memory} (hm : m.Pairwise (fun c d => c.1 < d.1))
    (h : ∀ c ∈ m, a < c.1) : (cellFor a x ++ m).Pairwise (fun c d => c.1 < d.1) := by
  unfold cellFor
  split
  · simpa using hm
  · simpa using ⟨fun p y hc => h (p, y) hc, hm⟩

theorem pairwise_write {m : Memory} (hm : m.Pairwise (fun c d => c.1 < d.1)) (a : Nat) (x : Byte) :
    (write m a x).Pairwise (fun c d => c.1 < d.1) := by
  induction m with
  | nil => simpa [write] using pairwise_cellFor_append (x := x) (a := a) (m := []) (by simp) (by simp)
  | cons d rest ih =>
    obtain ⟨p, y⟩ := d
    obtain ⟨hlt, hrest⟩ := List.pairwise_cons.mp hm
    unfold write
    split
    · next h =>
      refine pairwise_cellFor_append hm fun c hc => ?_
      rcases List.mem_cons.mp hc with rfl | hc
      · exact h
      · exact Nat.lt_trans h (hlt c hc)
    · split
      · next h => subst h; exact pairwise_cellFor_append hrest hlt
      · next h1 h2 =>
        refine List.pairwise_cons.mpr ⟨fun c hc => ?_, ih hrest⟩
        rcases mem_write hc with hc | ⟨rfl, -⟩
        · exact hlt c hc
        · show p < a; omega

/-- A write in range keeps the canonical form. -/
theorem wf_write {m : Memory} (hm : m.wf) {a : Nat} (ha : a < 4096) (x : Byte) : (write m a x).wf := by
  refine ⟨pairwise_write hm.1 a x, fun c hc => ?_⟩
  rcases mem_write hc with hc | ⟨rfl, hx⟩
  · exact hm.2 c hc
  · exact ⟨ha, hx⟩

theorem wf_nil : wf [] := by simp [wf]

theorem pairwise_writeBlock (bs : List Byte) {m : Memory} (hm : m.Pairwise (fun c d => c.1 < d.1)) (a : Nat) :
    (writeBlock m a bs).Pairwise (fun c d => c.1 < d.1) := by
  induction bs generalizing m a with
  | nil => exact hm
  | cons b bs ih => exact ih (pairwise_write hm a b) (a + 1)

/-- Writing a block in range keeps the canonical form. -/
theorem wf_writeBlock (bs : List Byte) {m : Memory} (hm : m.wf) (a : Nat) (h : a + bs.length ≤ 4096) :
    (writeBlock m a bs).wf := by
  induction bs generalizing m a with
  | nil => exact hm
  | cons b bs ih =>
    simp only [List.length_cons] at h
    exact ih (wf_write hm (by omega) b) (a + 1) (by omega)

/-- Reading after a block write: the written addresses read as the bytes, every other as before. -/
theorem read_writeBlock (bs : List Byte) {m : Memory} (hm : m.Pairwise (fun c d => c.1 < d.1)) (a b : Nat) :
    read (writeBlock m a bs) b = if h : a ≤ b ∧ b - a < bs.length then bs[b - a]'h.2 else read m b := by
  induction bs generalizing m a with
  | nil => simp [writeBlock]
  | cons x bs ih =>
    rw [writeBlock, ih (pairwise_write hm a x) (a + 1), read_write m hm]
    by_cases hb : b = a
    · subst hb; simp
    · by_cases h : a + 1 ≤ b ∧ b - (a + 1) < bs.length
      · have e : b - a = (b - (a + 1)) + 1 := by omega
        have h' : a ≤ b ∧ b - a < (x :: bs).length := by simp only [List.length_cons]; omega
        rw [dif_pos h, dif_pos h']
        simp only [e, List.getElem_cons_succ]
      · have h' : ¬ (a ≤ b ∧ b - a < (x :: bs).length) := by simp only [List.length_cons]; omega
        rw [dif_neg h, dif_neg h', if_neg hb]

theorem read_writeBlock_outside {bs : List Byte} {m : Memory} (hm : m.Pairwise (fun c d => c.1 < d.1)) {a b : Nat}
    (h : b < a ∨ a + bs.length ≤ b) : read (writeBlock m a bs) b = read m b := by
  rw [read_writeBlock bs hm, dif_neg (by omega)]

@[simp] theorem length_readBlock (m : Memory) (a n : Nat) : (readBlock m a n).length = n := by simp [readBlock]

@[simp] theorem getElem_readBlock (m : Memory) (a n k : Nat) (h : k < (readBlock m a n).length) :
    (readBlock m a n)[k] = read m (a + k) := by simp [readBlock]

/-- A listed cell reads as listed. -/
theorem read_of_mem {m : Memory} (hm : m.Pairwise (fun c d => c.1 < d.1)) {c : Host.Cell} (hc : c ∈ m) :
    read m c.1 = c.2 := by
  induction m with
  | nil => simp at hc
  | cons d rest ih =>
    obtain ⟨p, y⟩ := d
    obtain ⟨hlt, hrest⟩ := List.pairwise_cons.mp hm
    rcases List.mem_cons.mp hc with rfl | hc
    · simp [read]
    · have := hlt c hc
      simp only [read]
      rw [if_neg (by simp at this; omega), ih hrest hc]

/-- In canonical form, the cells are exactly the addresses that do not read as unlisted. -/
theorem mem_iff {m : Memory} (hm : m.wf) (c : Host.Cell) : c ∈ m ↔ c.2 = read m c.1 ∧ c.2 ≠ unlisted c.1 := by
  constructor
  · exact fun hc => ⟨(read_of_mem hm.1 hc).symm, (hm.2 c hc).2⟩
  · rintro ⟨h1, h2⟩
    by_contra hc
    refine h2 (h1.trans ?_)
    have : ∀ (l : Memory), (∀ d ∈ l, d ∈ m) → read l c.1 ≠ unlisted c.1 → ∃ d ∈ l, d.1 = c.1 := by
      intro l
      induction l with
      | nil => intro _ h; exact absurd rfl h
      | cons d rest ih =>
        obtain ⟨p, y⟩ := d
        intro hl h
        by_cases hp : p = c.1
        · exact ⟨(p, y), by simp, hp⟩
        · simp only [read, if_neg hp] at h
          obtain ⟨d, hd, e⟩ := ih (fun d hd => hl d (by simp [hd])) h
          exact ⟨d, by simp [hd], e⟩
    by_contra hne
    obtain ⟨d, hd, e⟩ := this m (fun _ h => h) hne
    have hr := read_of_mem hm.1 hd
    rw [e] at hr
    exact hc (by rwa [show c = d from Prod.ext e.symm (h1.trans hr)])

end Memory

/-! ### The range check -/

/-- The range check finds nothing exactly where every byte is in range, or there is none. -/
theorem rangeFault_eq_none {a n : Nat} {k : AccessKind} : rangeFault a n k = none ↔ n = 0 ∨ a + n ≤ 4096 := by
  unfold rangeFault Config.memSize
  split <;> simp <;> omega

/-- Where the range check finds a fault, it carries the lowest address of 4096 or more. -/
theorem rangeFault_eq_some {a n : Nat} {k : AccessKind} (h0 : n ≠ 0) (h : 4096 < a + n) :
    rangeFault a n k = some (.memoryOutOfRange (max a 4096) k) := by
  simp [rangeFault, h0, h]

end Sys2Proof.Machine
end

