-- ==== Sys2Proof/Laws/State.lean ====
section
/-! SUPPORT. Laws/State.lean: for each update of the state, what each field holds after it; and reading a register after each. -/

namespace Sys2Proof.Machine

variable (s : State)

/-! ### setReg -/

@[simp] theorem State.setReg_v (x : RegIdx) (b : Byte) : (s.setReg x b).v = s.v.set x.toNat b x.isLt := rfl
@[simp] theorem State.setReg_i (x : RegIdx) (b : Byte) : (s.setReg x b).i = s.i := rfl
@[simp] theorem State.setReg_pc (x : RegIdx) (b : Byte) : (s.setReg x b).pc = s.pc := rfl
@[simp] theorem State.setReg_sp (x : RegIdx) (b : Byte) : (s.setReg x b).sp = s.sp := rfl
@[simp] theorem State.setReg_stack (x : RegIdx) (b : Byte) : (s.setReg x b).stack = s.stack := rfl
@[simp] theorem State.setReg_dt (x : RegIdx) (b : Byte) : (s.setReg x b).dt = s.dt := rfl
@[simp] theorem State.setReg_st (x : RegIdx) (b : Byte) : (s.setReg x b).st = s.st := rfl
@[simp] theorem State.setReg_keys (x : RegIdx) (b : Byte) : (s.setReg x b).keys = s.keys := rfl
@[simp] theorem State.setReg_fb (x : RegIdx) (b : Byte) : (s.setReg x b).fb = s.fb := rfl
@[simp] theorem State.setReg_mem (x : RegIdx) (b : Byte) : (s.setReg x b).mem = s.mem := rfl
@[simp] theorem State.setReg_fault (x : RegIdx) (b : Byte) : (s.setReg x b).fault = s.fault := rfl
@[simp] theorem State.setReg_refused (x : RegIdx) (b : Byte) : (s.setReg x b).refused = s.refused := rfl
@[simp] theorem State.setReg_draws (x : RegIdx) (b : Byte) : (s.setReg x b).draws = s.draws := rfl
@[simp] theorem State.setReg_pending (x : RegIdx) (b : Byte) : (s.setReg x b).pending = s.pending := rfl

/-! ### setI -/

@[simp] theorem State.setI_v (a : Word) : (s.setI a).v = s.v := rfl
@[simp] theorem State.setI_i (a : Word) : (s.setI a).i = a := rfl
@[simp] theorem State.setI_pc (a : Word) : (s.setI a).pc = s.pc := rfl
@[simp] theorem State.setI_sp (a : Word) : (s.setI a).sp = s.sp := rfl
@[simp] theorem State.setI_stack (a : Word) : (s.setI a).stack = s.stack := rfl
@[simp] theorem State.setI_dt (a : Word) : (s.setI a).dt = s.dt := rfl
@[simp] theorem State.setI_st (a : Word) : (s.setI a).st = s.st := rfl
@[simp] theorem State.setI_keys (a : Word) : (s.setI a).keys = s.keys := rfl
@[simp] theorem State.setI_fb (a : Word) : (s.setI a).fb = s.fb := rfl
@[simp] theorem State.setI_mem (a : Word) : (s.setI a).mem = s.mem := rfl
@[simp] theorem State.setI_fault (a : Word) : (s.setI a).fault = s.fault := rfl
@[simp] theorem State.setI_refused (a : Word) : (s.setI a).refused = s.refused := rfl
@[simp] theorem State.setI_draws (a : Word) : (s.setI a).draws = s.draws := rfl
@[simp] theorem State.setI_pending (a : Word) : (s.setI a).pending = s.pending := rfl
@[simp] theorem State.setI_reg (a : Word) (r : RegIdx) : (s.setI a).reg r = s.reg r := rfl

/-! ### setPc -/

@[simp] theorem State.setPc_v (a : Word) : (s.setPc a).v = s.v := rfl
@[simp] theorem State.setPc_i (a : Word) : (s.setPc a).i = s.i := rfl
@[simp] theorem State.setPc_pc (a : Word) : (s.setPc a).pc = a := rfl
@[simp] theorem State.setPc_sp (a : Word) : (s.setPc a).sp = s.sp := rfl
@[simp] theorem State.setPc_stack (a : Word) : (s.setPc a).stack = s.stack := rfl
@[simp] theorem State.setPc_dt (a : Word) : (s.setPc a).dt = s.dt := rfl
@[simp] theorem State.setPc_st (a : Word) : (s.setPc a).st = s.st := rfl
@[simp] theorem State.setPc_keys (a : Word) : (s.setPc a).keys = s.keys := rfl
@[simp] theorem State.setPc_fb (a : Word) : (s.setPc a).fb = s.fb := rfl
@[simp] theorem State.setPc_mem (a : Word) : (s.setPc a).mem = s.mem := rfl
@[simp] theorem State.setPc_fault (a : Word) : (s.setPc a).fault = s.fault := rfl
@[simp] theorem State.setPc_refused (a : Word) : (s.setPc a).refused = s.refused := rfl
@[simp] theorem State.setPc_draws (a : Word) : (s.setPc a).draws = s.draws := rfl
@[simp] theorem State.setPc_pending (a : Word) : (s.setPc a).pending = s.pending := rfl
@[simp] theorem State.setPc_reg (a : Word) (r : RegIdx) : (s.setPc a).reg r = s.reg r := rfl

/-! ### setDt -/

@[simp] theorem State.setDt_v (b : Byte) : (s.setDt b).v = s.v := rfl
@[simp] theorem State.setDt_i (b : Byte) : (s.setDt b).i = s.i := rfl
@[simp] theorem State.setDt_pc (b : Byte) : (s.setDt b).pc = s.pc := rfl
@[simp] theorem State.setDt_sp (b : Byte) : (s.setDt b).sp = s.sp := rfl
@[simp] theorem State.setDt_stack (b : Byte) : (s.setDt b).stack = s.stack := rfl
@[simp] theorem State.setDt_dt (b : Byte) : (s.setDt b).dt = b := rfl
@[simp] theorem State.setDt_st (b : Byte) : (s.setDt b).st = s.st := rfl
@[simp] theorem State.setDt_keys (b : Byte) : (s.setDt b).keys = s.keys := rfl
@[simp] theorem State.setDt_fb (b : Byte) : (s.setDt b).fb = s.fb := rfl
@[simp] theorem State.setDt_mem (b : Byte) : (s.setDt b).mem = s.mem := rfl
@[simp] theorem State.setDt_fault (b : Byte) : (s.setDt b).fault = s.fault := rfl
@[simp] theorem State.setDt_refused (b : Byte) : (s.setDt b).refused = s.refused := rfl
@[simp] theorem State.setDt_draws (b : Byte) : (s.setDt b).draws = s.draws := rfl
@[simp] theorem State.setDt_pending (b : Byte) : (s.setDt b).pending = s.pending := rfl
@[simp] theorem State.setDt_reg (b : Byte) (r : RegIdx) : (s.setDt b).reg r = s.reg r := rfl

/-! ### setSt -/

@[simp] theorem State.setSt_v (b : Byte) : (s.setSt b).v = s.v := rfl
@[simp] theorem State.setSt_i (b : Byte) : (s.setSt b).i = s.i := rfl
@[simp] theorem State.setSt_pc (b : Byte) : (s.setSt b).pc = s.pc := rfl
@[simp] theorem State.setSt_sp (b : Byte) : (s.setSt b).sp = s.sp := rfl
@[simp] theorem State.setSt_stack (b : Byte) : (s.setSt b).stack = s.stack := rfl
@[simp] theorem State.setSt_dt (b : Byte) : (s.setSt b).dt = s.dt := rfl
@[simp] theorem State.setSt_st (b : Byte) : (s.setSt b).st = b := rfl
@[simp] theorem State.setSt_keys (b : Byte) : (s.setSt b).keys = s.keys := rfl
@[simp] theorem State.setSt_fb (b : Byte) : (s.setSt b).fb = s.fb := rfl
@[simp] theorem State.setSt_mem (b : Byte) : (s.setSt b).mem = s.mem := rfl
@[simp] theorem State.setSt_fault (b : Byte) : (s.setSt b).fault = s.fault := rfl
@[simp] theorem State.setSt_refused (b : Byte) : (s.setSt b).refused = s.refused := rfl
@[simp] theorem State.setSt_draws (b : Byte) : (s.setSt b).draws = s.draws := rfl
@[simp] theorem State.setSt_pending (b : Byte) : (s.setSt b).pending = s.pending := rfl
@[simp] theorem State.setSt_reg (b : Byte) (r : RegIdx) : (s.setSt b).reg r = s.reg r := rfl

/-! ### setMem -/

@[simp] theorem State.setMem_v (m : Memory) : (s.setMem m).v = s.v := rfl
@[simp] theorem State.setMem_i (m : Memory) : (s.setMem m).i = s.i := rfl
@[simp] theorem State.setMem_pc (m : Memory) : (s.setMem m).pc = s.pc := rfl
@[simp] theorem State.setMem_sp (m : Memory) : (s.setMem m).sp = s.sp := rfl
@[simp] theorem State.setMem_stack (m : Memory) : (s.setMem m).stack = s.stack := rfl
@[simp] theorem State.setMem_dt (m : Memory) : (s.setMem m).dt = s.dt := rfl
@[simp] theorem State.setMem_st (m : Memory) : (s.setMem m).st = s.st := rfl
@[simp] theorem State.setMem_keys (m : Memory) : (s.setMem m).keys = s.keys := rfl
@[simp] theorem State.setMem_fb (m : Memory) : (s.setMem m).fb = s.fb := rfl
@[simp] theorem State.setMem_mem (m : Memory) : (s.setMem m).mem = m := rfl
@[simp] theorem State.setMem_fault (m : Memory) : (s.setMem m).fault = s.fault := rfl
@[simp] theorem State.setMem_refused (m : Memory) : (s.setMem m).refused = s.refused := rfl
@[simp] theorem State.setMem_draws (m : Memory) : (s.setMem m).draws = s.draws := rfl
@[simp] theorem State.setMem_pending (m : Memory) : (s.setMem m).pending = s.pending := rfl
@[simp] theorem State.setMem_reg (m : Memory) (r : RegIdx) : (s.setMem m).reg r = s.reg r := rfl

/-! ### setFb -/

@[simp] theorem State.setFb_v (f : Framebuffer) : (s.setFb f).v = s.v := rfl
@[simp] theorem State.setFb_i (f : Framebuffer) : (s.setFb f).i = s.i := rfl
@[simp] theorem State.setFb_pc (f : Framebuffer) : (s.setFb f).pc = s.pc := rfl
@[simp] theorem State.setFb_sp (f : Framebuffer) : (s.setFb f).sp = s.sp := rfl
@[simp] theorem State.setFb_stack (f : Framebuffer) : (s.setFb f).stack = s.stack := rfl
@[simp] theorem State.setFb_dt (f : Framebuffer) : (s.setFb f).dt = s.dt := rfl
@[simp] theorem State.setFb_st (f : Framebuffer) : (s.setFb f).st = s.st := rfl
@[simp] theorem State.setFb_keys (f : Framebuffer) : (s.setFb f).keys = s.keys := rfl
@[simp] theorem State.setFb_fb (f : Framebuffer) : (s.setFb f).fb = f := rfl
@[simp] theorem State.setFb_mem (f : Framebuffer) : (s.setFb f).mem = s.mem := rfl
@[simp] theorem State.setFb_fault (f : Framebuffer) : (s.setFb f).fault = s.fault := rfl
@[simp] theorem State.setFb_refused (f : Framebuffer) : (s.setFb f).refused = s.refused := rfl
@[simp] theorem State.setFb_draws (f : Framebuffer) : (s.setFb f).draws = s.draws := rfl
@[simp] theorem State.setFb_pending (f : Framebuffer) : (s.setFb f).pending = s.pending := rfl
@[simp] theorem State.setFb_reg (f : Framebuffer) (r : RegIdx) : (s.setFb f).reg r = s.reg r := rfl

/-! ### countDraw -/

@[simp] theorem State.countDraw_v : (s.countDraw).v = s.v := rfl
@[simp] theorem State.countDraw_i : (s.countDraw).i = s.i := rfl
@[simp] theorem State.countDraw_pc : (s.countDraw).pc = s.pc := rfl
@[simp] theorem State.countDraw_sp : (s.countDraw).sp = s.sp := rfl
@[simp] theorem State.countDraw_stack : (s.countDraw).stack = s.stack := rfl
@[simp] theorem State.countDraw_dt : (s.countDraw).dt = s.dt := rfl
@[simp] theorem State.countDraw_st : (s.countDraw).st = s.st := rfl
@[simp] theorem State.countDraw_keys : (s.countDraw).keys = s.keys := rfl
@[simp] theorem State.countDraw_fb : (s.countDraw).fb = s.fb := rfl
@[simp] theorem State.countDraw_mem : (s.countDraw).mem = s.mem := rfl
@[simp] theorem State.countDraw_fault : (s.countDraw).fault = s.fault := rfl
@[simp] theorem State.countDraw_refused : (s.countDraw).refused = s.refused := rfl
@[simp] theorem State.countDraw_draws : (s.countDraw).draws = s.draws + 1 := rfl
@[simp] theorem State.countDraw_pending : (s.countDraw).pending = s.pending := rfl
@[simp] theorem State.countDraw_reg (r : RegIdx) : (s.countDraw).reg r = s.reg r := rfl

/-! ### advance -/

@[simp] theorem State.advance_v : (s.advance).v = s.v := rfl
@[simp] theorem State.advance_i : (s.advance).i = s.i := rfl
@[simp] theorem State.advance_pc : (s.advance).pc = s.pc + 2 := rfl
@[simp] theorem State.advance_sp : (s.advance).sp = s.sp := rfl
@[simp] theorem State.advance_stack : (s.advance).stack = s.stack := rfl
@[simp] theorem State.advance_dt : (s.advance).dt = s.dt := rfl
@[simp] theorem State.advance_st : (s.advance).st = s.st := rfl
@[simp] theorem State.advance_keys : (s.advance).keys = s.keys := rfl
@[simp] theorem State.advance_fb : (s.advance).fb = s.fb := rfl
@[simp] theorem State.advance_mem : (s.advance).mem = s.mem := rfl
@[simp] theorem State.advance_fault : (s.advance).fault = s.fault := rfl
@[simp] theorem State.advance_refused : (s.advance).refused = s.refused := rfl
@[simp] theorem State.advance_draws : (s.advance).draws = s.draws := rfl
@[simp] theorem State.advance_pending : (s.advance).pending = s.pending := rfl
@[simp] theorem State.advance_reg (r : RegIdx) : (s.advance).reg r = s.reg r := rfl

/-! ### rewind -/

@[simp] theorem State.rewind_v : (s.rewind).v = s.v := rfl
@[simp] theorem State.rewind_i : (s.rewind).i = s.i := rfl
@[simp] theorem State.rewind_pc : (s.rewind).pc = s.pc - 2 := rfl
@[simp] theorem State.rewind_sp : (s.rewind).sp = s.sp := rfl
@[simp] theorem State.rewind_stack : (s.rewind).stack = s.stack := rfl
@[simp] theorem State.rewind_dt : (s.rewind).dt = s.dt := rfl
@[simp] theorem State.rewind_st : (s.rewind).st = s.st := rfl
@[simp] theorem State.rewind_keys : (s.rewind).keys = s.keys := rfl
@[simp] theorem State.rewind_fb : (s.rewind).fb = s.fb := rfl
@[simp] theorem State.rewind_mem : (s.rewind).mem = s.mem := rfl
@[simp] theorem State.rewind_fault : (s.rewind).fault = s.fault := rfl
@[simp] theorem State.rewind_refused : (s.rewind).refused = s.refused := rfl
@[simp] theorem State.rewind_draws : (s.rewind).draws = s.draws := rfl
@[simp] theorem State.rewind_pending : (s.rewind).pending = s.pending := rfl
@[simp] theorem State.rewind_reg (r : RegIdx) : (s.rewind).reg r = s.reg r := rfl

/-! ### raiseAt -/

@[simp] theorem State.raiseAt_v (a : Word) (c : FaultCause) : (s.raiseAt a c).v = s.v := rfl
@[simp] theorem State.raiseAt_i (a : Word) (c : FaultCause) : (s.raiseAt a c).i = s.i := rfl
@[simp] theorem State.raiseAt_pc (a : Word) (c : FaultCause) : (s.raiseAt a c).pc = a := rfl
@[simp] theorem State.raiseAt_sp (a : Word) (c : FaultCause) : (s.raiseAt a c).sp = s.sp := rfl
@[simp] theorem State.raiseAt_stack (a : Word) (c : FaultCause) : (s.raiseAt a c).stack = s.stack := rfl
@[simp] theorem State.raiseAt_dt (a : Word) (c : FaultCause) : (s.raiseAt a c).dt = s.dt := rfl
@[simp] theorem State.raiseAt_st (a : Word) (c : FaultCause) : (s.raiseAt a c).st = s.st := rfl
@[simp] theorem State.raiseAt_keys (a : Word) (c : FaultCause) : (s.raiseAt a c).keys = s.keys := rfl
@[simp] theorem State.raiseAt_fb (a : Word) (c : FaultCause) : (s.raiseAt a c).fb = s.fb := rfl
@[simp] theorem State.raiseAt_mem (a : Word) (c : FaultCause) : (s.raiseAt a c).mem = s.mem := rfl
@[simp] theorem State.raiseAt_fault (a : Word) (c : FaultCause) : (s.raiseAt a c).fault = some ⟨a, c⟩ := rfl
@[simp] theorem State.raiseAt_refused (a : Word) (c : FaultCause) : (s.raiseAt a c).refused = s.refused := rfl
@[simp] theorem State.raiseAt_draws (a : Word) (c : FaultCause) : (s.raiseAt a c).draws = s.draws := rfl
@[simp] theorem State.raiseAt_pending (a : Word) (c : FaultCause) : (s.raiseAt a c).pending = s.pending := rfl
@[simp] theorem State.raiseAt_reg (a : Word) (c : FaultCause) (r : RegIdx) : (s.raiseAt a c).reg r = s.reg r := rfl

/-! ### raise -/

@[simp] theorem State.raise_v (c : FaultCause) : (s.raise c).v = s.v := rfl
@[simp] theorem State.raise_i (c : FaultCause) : (s.raise c).i = s.i := rfl
@[simp] theorem State.raise_pc (c : FaultCause) : (s.raise c).pc = s.pc - 2 := rfl
@[simp] theorem State.raise_sp (c : FaultCause) : (s.raise c).sp = s.sp := rfl
@[simp] theorem State.raise_stack (c : FaultCause) : (s.raise c).stack = s.stack := rfl
@[simp] theorem State.raise_dt (c : FaultCause) : (s.raise c).dt = s.dt := rfl
@[simp] theorem State.raise_st (c : FaultCause) : (s.raise c).st = s.st := rfl
@[simp] theorem State.raise_keys (c : FaultCause) : (s.raise c).keys = s.keys := rfl
@[simp] theorem State.raise_fb (c : FaultCause) : (s.raise c).fb = s.fb := rfl
@[simp] theorem State.raise_mem (c : FaultCause) : (s.raise c).mem = s.mem := rfl
@[simp] theorem State.raise_fault (c : FaultCause) : (s.raise c).fault = some ⟨s.pc - 2, c⟩ := rfl
@[simp] theorem State.raise_refused (c : FaultCause) : (s.raise c).refused = s.refused := rfl
@[simp] theorem State.raise_draws (c : FaultCause) : (s.raise c).draws = s.draws := rfl
@[simp] theorem State.raise_pending (c : FaultCause) : (s.raise c).pending = s.pending := rfl
@[simp] theorem State.raise_reg (c : FaultCause) (r : RegIdx) : (s.raise c).reg r = s.reg r := rfl

/-! ### setRegBlock -/

@[simp] theorem State.setRegBlock_i (x : RegIdx) (a : Nat) : (s.setRegBlock x a).i = s.i := rfl
@[simp] theorem State.setRegBlock_pc (x : RegIdx) (a : Nat) : (s.setRegBlock x a).pc = s.pc := rfl
@[simp] theorem State.setRegBlock_sp (x : RegIdx) (a : Nat) : (s.setRegBlock x a).sp = s.sp := rfl
@[simp] theorem State.setRegBlock_stack (x : RegIdx) (a : Nat) : (s.setRegBlock x a).stack = s.stack := rfl
@[simp] theorem State.setRegBlock_dt (x : RegIdx) (a : Nat) : (s.setRegBlock x a).dt = s.dt := rfl
@[simp] theorem State.setRegBlock_st (x : RegIdx) (a : Nat) : (s.setRegBlock x a).st = s.st := rfl
@[simp] theorem State.setRegBlock_keys (x : RegIdx) (a : Nat) : (s.setRegBlock x a).keys = s.keys := rfl
@[simp] theorem State.setRegBlock_fb (x : RegIdx) (a : Nat) : (s.setRegBlock x a).fb = s.fb := rfl
@[simp] theorem State.setRegBlock_mem (x : RegIdx) (a : Nat) : (s.setRegBlock x a).mem = s.mem := rfl
@[simp] theorem State.setRegBlock_fault (x : RegIdx) (a : Nat) : (s.setRegBlock x a).fault = s.fault := rfl
@[simp] theorem State.setRegBlock_refused (x : RegIdx) (a : Nat) : (s.setRegBlock x a).refused = s.refused := rfl
@[simp] theorem State.setRegBlock_draws (x : RegIdx) (a : Nat) : (s.setRegBlock x a).draws = s.draws := rfl
@[simp] theorem State.setRegBlock_pending (x : RegIdx) (a : Nat) : (s.setRegBlock x a).pending = s.pending := rfl

/-! ### refuse -/

@[simp] theorem State.refuse_v : (s.refuse).v = s.v := rfl
@[simp] theorem State.refuse_i : (s.refuse).i = s.i := rfl
@[simp] theorem State.refuse_pc : (s.refuse).pc = s.pc := rfl
@[simp] theorem State.refuse_sp : (s.refuse).sp = s.sp := rfl
@[simp] theorem State.refuse_stack : (s.refuse).stack = s.stack := rfl
@[simp] theorem State.refuse_dt : (s.refuse).dt = s.dt := rfl
@[simp] theorem State.refuse_st : (s.refuse).st = s.st := rfl
@[simp] theorem State.refuse_keys : (s.refuse).keys = s.keys := rfl
@[simp] theorem State.refuse_fb : (s.refuse).fb = s.fb := rfl
@[simp] theorem State.refuse_mem : (s.refuse).mem = s.mem := rfl
@[simp] theorem State.refuse_fault : (s.refuse).fault = s.fault := rfl
@[simp] theorem State.refuse_refused : (s.refuse).refused = true := rfl
@[simp] theorem State.refuse_draws : (s.refuse).draws = s.draws := rfl
@[simp] theorem State.refuse_pending : (s.refuse).pending = s.pending := rfl
@[simp] theorem State.refuse_reg (r : RegIdx) : (s.refuse).reg r = s.reg r := rfl

/-! ### tickTimers -/

@[simp] theorem State.tickTimers_v : (s.tickTimers).v = s.v := rfl
@[simp] theorem State.tickTimers_i : (s.tickTimers).i = s.i := rfl
@[simp] theorem State.tickTimers_pc : (s.tickTimers).pc = s.pc := rfl
@[simp] theorem State.tickTimers_sp : (s.tickTimers).sp = s.sp := rfl
@[simp] theorem State.tickTimers_stack : (s.tickTimers).stack = s.stack := rfl
@[simp] theorem State.tickTimers_dt : (s.tickTimers).dt = countDown s.dt := rfl
@[simp] theorem State.tickTimers_st : (s.tickTimers).st = countDown s.st := rfl
@[simp] theorem State.tickTimers_keys : (s.tickTimers).keys = s.keys := rfl
@[simp] theorem State.tickTimers_fb : (s.tickTimers).fb = s.fb := rfl
@[simp] theorem State.tickTimers_mem : (s.tickTimers).mem = s.mem := rfl
@[simp] theorem State.tickTimers_fault : (s.tickTimers).fault = s.fault := rfl
@[simp] theorem State.tickTimers_refused : (s.tickTimers).refused = s.refused := rfl
@[simp] theorem State.tickTimers_draws : (s.tickTimers).draws = s.draws := rfl
@[simp] theorem State.tickTimers_pending : (s.tickTimers).pending = s.pending := rfl
@[simp] theorem State.tickTimers_reg (r : RegIdx) : (s.tickTimers).reg r = s.reg r := rfl

/-! ### skipIf: a skip writes the PC alone -/

@[simp] theorem State.skipIf_v (c : Bool) : (s.skipIf c).v = s.v := by cases c <;> rfl
@[simp] theorem State.skipIf_i (c : Bool) : (s.skipIf c).i = s.i := by cases c <;> rfl
@[simp] theorem State.skipIf_pc (c : Bool) : (s.skipIf c).pc = if c then s.pc + 2 else s.pc := by cases c <;> rfl
@[simp] theorem State.skipIf_sp (c : Bool) : (s.skipIf c).sp = s.sp := by cases c <;> rfl
@[simp] theorem State.skipIf_stack (c : Bool) : (s.skipIf c).stack = s.stack := by cases c <;> rfl
@[simp] theorem State.skipIf_dt (c : Bool) : (s.skipIf c).dt = s.dt := by cases c <;> rfl
@[simp] theorem State.skipIf_st (c : Bool) : (s.skipIf c).st = s.st := by cases c <;> rfl
@[simp] theorem State.skipIf_keys (c : Bool) : (s.skipIf c).keys = s.keys := by cases c <;> rfl
@[simp] theorem State.skipIf_fb (c : Bool) : (s.skipIf c).fb = s.fb := by cases c <;> rfl
@[simp] theorem State.skipIf_mem (c : Bool) : (s.skipIf c).mem = s.mem := by cases c <;> rfl
@[simp] theorem State.skipIf_fault (c : Bool) : (s.skipIf c).fault = s.fault := by cases c <;> rfl
@[simp] theorem State.skipIf_refused (c : Bool) : (s.skipIf c).refused = s.refused := by cases c <;> rfl
@[simp] theorem State.skipIf_draws (c : Bool) : (s.skipIf c).draws = s.draws := by cases c <;> rfl
@[simp] theorem State.skipIf_pending (c : Bool) : (s.skipIf c).pending = s.pending := by cases c <;> rfl
@[simp] theorem State.skipIf_reg (c : Bool) (r : RegIdx) : (s.skipIf c).reg r = s.reg r := by cases c <;> rfl

/-! ### setWithFlag: a data and a flag write, registers alone -/

@[simp] theorem State.setWithFlag_i (x : RegIdx) (b : Byte) (g : Bool) : (s.setWithFlag x b g).i = s.i := rfl
@[simp] theorem State.setWithFlag_pc (x : RegIdx) (b : Byte) (g : Bool) : (s.setWithFlag x b g).pc = s.pc := rfl
@[simp] theorem State.setWithFlag_sp (x : RegIdx) (b : Byte) (g : Bool) : (s.setWithFlag x b g).sp = s.sp := rfl
@[simp] theorem State.setWithFlag_stack (x : RegIdx) (b : Byte) (g : Bool) : (s.setWithFlag x b g).stack = s.stack := rfl
@[simp] theorem State.setWithFlag_dt (x : RegIdx) (b : Byte) (g : Bool) : (s.setWithFlag x b g).dt = s.dt := rfl
@[simp] theorem State.setWithFlag_st (x : RegIdx) (b : Byte) (g : Bool) : (s.setWithFlag x b g).st = s.st := rfl
@[simp] theorem State.setWithFlag_keys (x : RegIdx) (b : Byte) (g : Bool) : (s.setWithFlag x b g).keys = s.keys := rfl
@[simp] theorem State.setWithFlag_fb (x : RegIdx) (b : Byte) (g : Bool) : (s.setWithFlag x b g).fb = s.fb := rfl
@[simp] theorem State.setWithFlag_mem (x : RegIdx) (b : Byte) (g : Bool) : (s.setWithFlag x b g).mem = s.mem := rfl
@[simp] theorem State.setWithFlag_fault (x : RegIdx) (b : Byte) (g : Bool) : (s.setWithFlag x b g).fault = s.fault := rfl
@[simp] theorem State.setWithFlag_refused (x : RegIdx) (b : Byte) (g : Bool) : (s.setWithFlag x b g).refused = s.refused := rfl
@[simp] theorem State.setWithFlag_draws (x : RegIdx) (b : Byte) (g : Bool) : (s.setWithFlag x b g).draws = s.draws := rfl
@[simp] theorem State.setWithFlag_pending (x : RegIdx) (b : Byte) (g : Bool) : (s.setWithFlag x b g).pending = s.pending := rfl

/-! ### Reading a register after a write -/

/-- The written register reads as written, every other as before. -/
theorem State.reg_setReg (x r : RegIdx) (b : Byte) : (s.setReg x b).reg r = if r = x then b else s.reg r := by
  simp only [State.reg, State.setReg, Vector.getElem_set, BitVec.toNat_inj]
  by_cases h : x = r
  · simp [h]
  · simp [h, Ne.symm h]

@[simp] theorem State.reg_setReg_self (x : RegIdx) (b : Byte) : (s.setReg x b).reg x = b := by
  rw [State.reg_setReg, if_pos rfl]

theorem State.reg_setReg_of_ne {x r : RegIdx} (b : Byte) (h : r ≠ x) : (s.setReg x b).reg r = s.reg r := by
  rw [State.reg_setReg, if_neg h]

/-- The flag instructions: VF ends as the flag, also where it is the destination (assumption 2). -/
theorem State.reg_setWithFlag (x r : RegIdx) (b : Byte) (g : Bool) :
    (s.setWithFlag x b g).reg r = if r = vF then flagByte g else if r = x then b else s.reg r := by
  simp only [State.setWithFlag, flagWriteLast, if_true, State.reg_setReg]

/-- A block load: the registers up to X take the bytes, those above keep their value. -/
theorem State.reg_setRegBlock (x r : RegIdx) (a : Nat) :
    (s.setRegBlock x a).reg r = if r.toNat ≤ x.toNat then s.mem.read (a + r.toNat) else s.reg r := by
  simp only [State.reg, State.setRegBlock, Vector.getElem_ofFn]

end Sys2Proof.Machine
end

