-- ==== Sys2Proof/Laws/Ops.lean ====
section
/-! SUPPORT. Laws/Ops.lean: one lemma per shared operation, saying everything it can answer. -/

namespace Sys2Proof.Machine

variable (s : State)

/-! ### The check phase -/

/-- After the check phase: the fault that was found with nothing written, or the effect. -/
theorem checked_eq (found : Option FaultCause) (effect : State) :
    (∃ cause, found = some cause ∧ checked s found effect = .next (s.raise cause)) ∨
    (found = none ∧ checked s found effect = .next effect) := by
  cases found with
  | some cause => exact .inl ⟨cause, rfl, rfl⟩
  | none => exact .inr ⟨rfl, rfl⟩

/-- A block access through I either has every byte in range and takes effect, or raises the fault of its lowest byte of 4096 or more. -/
theorem checked_rangeFault (a n : Nat) (k : AccessKind) (effect : State) :
    ((n = 0 ∨ a + n ≤ 4096) ∧ checked s (rangeFault a n k) effect = .next effect) ∨
    (n ≠ 0 ∧ 4096 < a + n ∧
      checked s (rangeFault a n k) effect = .next (s.raise (.memoryOutOfRange (max a 4096) k))) := by
  by_cases h : n = 0 ∨ a + n ≤ 4096
  · exact .inl ⟨h, by rw [rangeFault_eq_none.mpr h]; rfl⟩
  · have h0 : n ≠ 0 := fun e => h (.inl e)
    have h1 : 4096 < a + n := by omega
    exact .inr ⟨h0, h1, by rw [rangeFault_eq_some h0 h1]; rfl⟩

/-! ### The stack -/

/-- A push with room: the next entry and the count are written, nothing else. -/
theorem State.push_of_lt (a : Word) (h : s.sp.val < 16) :
    s.push a = .ok { s with stack := s.stack.set s.sp.val a h, sp := ⟨s.sp.val + 1, by omega⟩ } := by
  rw [State.push, dif_pos h]

theorem State.push_of_full (a : Word) (h : s.sp.val = 16) : s.push a = .error .stackOverflow := by
  rw [State.push, dif_neg (by omega)]

theorem State.pop_of_empty (h : s.sp.val = 0) : s.pop = .error .stackUnderflow := by
  obtain ⟨v, i, pc, sp, stack⟩ := s
  obtain ⟨k, hk⟩ := sp
  cases k with
  | zero => rfl
  | succ k => simp at h

/-- A pop with a live entry: the last one, no longer counted; nothing else is written. -/
theorem State.pop_of_succ {k : Nat} (hk : k < 16) (h : s.sp.val = k + 1) :
    s.pop = .ok (s.stack[k], { s with sp := ⟨k, by omega⟩ }) := by
  obtain ⟨v, i, pc, sp, stack⟩ := s
  obtain ⟨j, hj⟩ := sp
  cases j with
  | zero => simp at h
  | succ j =>
    obtain rfl : j = k := by simpa using h
    rfl

/-! ### Keys -/

theorem State.keyOf_of_lt {x : RegIdx} (h : (s.reg x).toNat < 16) : s.keyOf x = .ok s.keys[(s.reg x).toNat] := by
  rw [State.keyOf, dif_pos h]

theorem State.keyOf_of_ge {x : RegIdx} (h : 16 ≤ (s.reg x).toNat) :
    s.keyOf x = .error (.keyIndexOutOfRange (s.reg x)) := by
  rw [State.keyOf, dif_neg (by omega)]

/-- No key is found exactly when none is pressed. -/
theorem State.leastKey_eq_none : s.leastKey = none ↔ ∀ (k : Nat) (h : k < 16), s.keys[k] = false := by
  rw [State.leastKey, List.findIdx?_eq_none_iff]
  constructor
  · intro h k hk
    simpa using h s.keys[k] (by simp)
  · intro h b hb
    obtain ⟨k, hk, rfl⟩ := List.getElem_of_mem hb
    simpa using h k (by simpa using hk)

/-- The key found is pressed and none below it is. -/
theorem State.leastKey_eq_some {k : Nat} :
    s.leastKey = some k ↔ ∃ h : k < 16, s.keys[k] = true ∧ ∀ (j : Nat) (hj : j < k), s.keys[j] = false := by
  rw [State.leastKey, List.findIdx?_eq_some_iff_getElem]
  simp

/-! ### Pixels -/

/-- A flip changes one pixel. -/
theorem Framebuffer.pixel_flip (f : Framebuffer) (x y px py : Nat) :
    (f.flip x y).pixel px py =
      if px % 64 = x % 64 ∧ py % 32 = y % 32 then !f.pixel px py else f.pixel px py := by
  simp only [Framebuffer.pixel, Framebuffer.flip, Vector.getElem_set]
  by_cases hy : y % 32 = py % 32
  · by_cases hx : x % 64 = px % 64
    · simp [hx, hy]
    · simp [hx, hy, Ne.symm hx]
  · simp [hy, Ne.symm hy]

@[simp] theorem Framebuffer.pixel_clear (px py : Nat) : Framebuffer.clear.pixel px py = false := by
  simp [Framebuffer.pixel, Framebuffer.clear]

/-- Two framebuffers with the same pixels are the same. -/
theorem Framebuffer.ext_pixel {f g : Framebuffer} (h : ∀ px py, px < 64 → py < 32 → f.pixel px py = g.pixel px py) : f = g := by
  apply Vector.ext
  intro y hy
  apply Vector.ext
  intro x hx
  have := h x y hx hy
  simpa only [Framebuffer.pixel, Nat.mod_eq_of_lt hx, Nat.mod_eq_of_lt hy] using this

/-! ### Flags and truncation as numbers -/

@[simp] theorem toNat_trunc8 (n : Nat) : (trunc8 n).toNat = n % 256 := by simp [trunc8]

@[simp] theorem toNat_trunc16 (n : Nat) : (trunc16 n).toNat = n % 65536 := by simp [trunc16]

@[simp] theorem toNat_addrOperand (nnn : Addr12) : (addrOperand nnn).toNat = nnn.toNat := by
  have := nnn.isLt
  simp only [addrOperand, BitVec.toNat_setWidth]; omega

/-! ### Running -/

theorem State.ifRunning_of_none {r : Result} (h : s.fault = none) : s.ifRunning r = r := by
  simp [State.ifRunning, h]

theorem State.ifRunning_of_some {r : Result} {record : FaultRecord} (h : s.fault = some record) :
    s.ifRunning r = .fault (.stuck record) := by
  simp [State.ifRunning, h]

/-- A guarded operation answers a next state only where it runs. -/
theorem State.ifRunning_eq_next {r : Result} {t : State} : s.ifRunning r = .next t ↔ s.fault = none ∧ r = .next t := by
  unfold State.ifRunning
  split <;> simp_all

end Sys2Proof.Machine
end

