-- ==== Sys2Proof/Laws/PerInstr.lean ====
section
/-! SUPPORT. Laws/PerInstr.lean: per instruction, its row is a row of the opcode map and its encoding has the row's fixed digits
(30_encoding.md R51), so an encoded instruction is a well-formed word. -/

namespace Sys2Proof.Laws

open Sys2Proof

/-- The row of an instruction is a row of the opcode map. -/
theorem row_mem (i : Instr) : i.row ∈ opRows := by
  cases i <;> simp [Instr.row, opRows, opRows0, opRows1, opRows2, opRows3, opRows4]

/-- The encoder's word matches the instruction's own row of the opcode map. -/
def EncodeMatchesRow.Statement (i : Instr) : Prop := i.row ∈ opRows ∧ i.row.covers (encode i) = true

theorem EncodeMatchesRow.nop : EncodeMatchesRow.Statement .nop := by
  refine ⟨by decide, by decide⟩

theorem EncodeMatchesRow.cls : EncodeMatchesRow.Statement .cls := by
  refine ⟨by decide, by decide⟩

theorem EncodeMatchesRow.ret : EncodeMatchesRow.Statement .ret := by
  refine ⟨by decide, by decide⟩

theorem EncodeMatchesRow.jp (nnn : Addr12) : EncodeMatchesRow.Statement (.jp nnn) := by
  refine ⟨row_mem _, ?_⟩
  exact beq_iff_eq.mpr ((and_F000 _ 0x1#4).mpr (by simp [encode]))

theorem EncodeMatchesRow.call (nnn : Addr12) : EncodeMatchesRow.Statement (.call nnn) := by
  refine ⟨row_mem _, ?_⟩
  exact beq_iff_eq.mpr ((and_F000 _ 0x2#4).mpr (by simp [encode]))

theorem EncodeMatchesRow.seByte (x : RegIdx) (nn : Byte) : EncodeMatchesRow.Statement (.seByte x nn) := by
  refine ⟨row_mem _, ?_⟩
  exact beq_iff_eq.mpr ((and_F000 _ 0x3#4).mpr (by simp [encode]))

theorem EncodeMatchesRow.sneByte (x : RegIdx) (nn : Byte) : EncodeMatchesRow.Statement (.sneByte x nn) := by
  refine ⟨row_mem _, ?_⟩
  exact beq_iff_eq.mpr ((and_F000 _ 0x4#4).mpr (by simp [encode]))

theorem EncodeMatchesRow.seReg (x : RegIdx) (y : RegIdx) : EncodeMatchesRow.Statement (.seReg x y) := by
  refine ⟨row_mem _, ?_⟩
  exact beq_iff_eq.mpr ((and_F00F _ 0x5#4 0x0#4).mpr ⟨by simp [encode], by simp [encode]⟩)

theorem EncodeMatchesRow.ldByte (x : RegIdx) (nn : Byte) : EncodeMatchesRow.Statement (.ldByte x nn) := by
  refine ⟨row_mem _, ?_⟩
  exact beq_iff_eq.mpr ((and_F000 _ 0x6#4).mpr (by simp [encode]))

theorem EncodeMatchesRow.addByte (x : RegIdx) (nn : Byte) : EncodeMatchesRow.Statement (.addByte x nn) := by
  refine ⟨row_mem _, ?_⟩
  exact beq_iff_eq.mpr ((and_F000 _ 0x7#4).mpr (by simp [encode]))

theorem EncodeMatchesRow.ldReg (x : RegIdx) (y : RegIdx) : EncodeMatchesRow.Statement (.ldReg x y) := by
  refine ⟨row_mem _, ?_⟩
  exact beq_iff_eq.mpr ((and_F00F _ 0x8#4 0x0#4).mpr ⟨by simp [encode], by simp [encode]⟩)

theorem EncodeMatchesRow.orReg (x : RegIdx) (y : RegIdx) : EncodeMatchesRow.Statement (.orReg x y) := by
  refine ⟨row_mem _, ?_⟩
  exact beq_iff_eq.mpr ((and_F00F _ 0x8#4 0x1#4).mpr ⟨by simp [encode], by simp [encode]⟩)

theorem EncodeMatchesRow.andReg (x : RegIdx) (y : RegIdx) : EncodeMatchesRow.Statement (.andReg x y) := by
  refine ⟨row_mem _, ?_⟩
  exact beq_iff_eq.mpr ((and_F00F _ 0x8#4 0x2#4).mpr ⟨by simp [encode], by simp [encode]⟩)

theorem EncodeMatchesRow.xorReg (x : RegIdx) (y : RegIdx) : EncodeMatchesRow.Statement (.xorReg x y) := by
  refine ⟨row_mem _, ?_⟩
  exact beq_iff_eq.mpr ((and_F00F _ 0x8#4 0x3#4).mpr ⟨by simp [encode], by simp [encode]⟩)

theorem EncodeMatchesRow.addReg (x : RegIdx) (y : RegIdx) : EncodeMatchesRow.Statement (.addReg x y) := by
  refine ⟨row_mem _, ?_⟩
  exact beq_iff_eq.mpr ((and_F00F _ 0x8#4 0x4#4).mpr ⟨by simp [encode], by simp [encode]⟩)

theorem EncodeMatchesRow.subReg (x : RegIdx) (y : RegIdx) : EncodeMatchesRow.Statement (.subReg x y) := by
  refine ⟨row_mem _, ?_⟩
  exact beq_iff_eq.mpr ((and_F00F _ 0x8#4 0x5#4).mpr ⟨by simp [encode], by simp [encode]⟩)

theorem EncodeMatchesRow.shr (x : RegIdx) (y : RegIdx) : EncodeMatchesRow.Statement (.shr x y) := by
  refine ⟨row_mem _, ?_⟩
  exact beq_iff_eq.mpr ((and_F00F _ 0x8#4 0x6#4).mpr ⟨by simp [encode], by simp [encode]⟩)

theorem EncodeMatchesRow.subnReg (x : RegIdx) (y : RegIdx) : EncodeMatchesRow.Statement (.subnReg x y) := by
  refine ⟨row_mem _, ?_⟩
  exact beq_iff_eq.mpr ((and_F00F _ 0x8#4 0x7#4).mpr ⟨by simp [encode], by simp [encode]⟩)

theorem EncodeMatchesRow.shl (x : RegIdx) (y : RegIdx) : EncodeMatchesRow.Statement (.shl x y) := by
  refine ⟨row_mem _, ?_⟩
  exact beq_iff_eq.mpr ((and_F00F _ 0x8#4 0xE#4).mpr ⟨by simp [encode], by simp [encode]⟩)

theorem EncodeMatchesRow.sneReg (x : RegIdx) (y : RegIdx) : EncodeMatchesRow.Statement (.sneReg x y) := by
  refine ⟨row_mem _, ?_⟩
  exact beq_iff_eq.mpr ((and_F00F _ 0x9#4 0x0#4).mpr ⟨by simp [encode], by simp [encode]⟩)

theorem EncodeMatchesRow.ldI (nnn : Addr12) : EncodeMatchesRow.Statement (.ldI nnn) := by
  refine ⟨row_mem _, ?_⟩
  exact beq_iff_eq.mpr ((and_F000 _ 0xA#4).mpr (by simp [encode]))

theorem EncodeMatchesRow.jpV0 (nnn : Addr12) : EncodeMatchesRow.Statement (.jpV0 nnn) := by
  refine ⟨row_mem _, ?_⟩
  exact beq_iff_eq.mpr ((and_F000 _ 0xB#4).mpr (by simp [encode]))

theorem EncodeMatchesRow.rnd (x : RegIdx) (nn : Byte) : EncodeMatchesRow.Statement (.rnd x nn) := by
  refine ⟨row_mem _, ?_⟩
  exact beq_iff_eq.mpr ((and_F000 _ 0xC#4).mpr (by simp [encode]))

theorem EncodeMatchesRow.drw (x : RegIdx) (y : RegIdx) (n : Nibble) : EncodeMatchesRow.Statement (.drw x y n) := by
  refine ⟨row_mem _, ?_⟩
  exact beq_iff_eq.mpr ((and_F000 _ 0xD#4).mpr (by simp [encode]))

theorem EncodeMatchesRow.skp (x : RegIdx) : EncodeMatchesRow.Statement (.skp x) := by
  refine ⟨row_mem _, ?_⟩
  exact beq_iff_eq.mpr ((and_F0FF _ 0xE#4 0x9#4 0xE#4).mpr ⟨by simp [encode], BitVec.eq_of_toNat_eq (digit3_ofXNN _ _ _), BitVec.eq_of_toNat_eq (digit4_ofXNN _ _ _)⟩)

theorem EncodeMatchesRow.sknp (x : RegIdx) : EncodeMatchesRow.Statement (.sknp x) := by
  refine ⟨row_mem _, ?_⟩
  exact beq_iff_eq.mpr ((and_F0FF _ 0xE#4 0xA#4 0x1#4).mpr ⟨by simp [encode], BitVec.eq_of_toNat_eq (digit3_ofXNN _ _ _), BitVec.eq_of_toNat_eq (digit4_ofXNN _ _ _)⟩)

theorem EncodeMatchesRow.ldVxDt (x : RegIdx) : EncodeMatchesRow.Statement (.ldVxDt x) := by
  refine ⟨row_mem _, ?_⟩
  exact beq_iff_eq.mpr ((and_F0FF _ 0xF#4 0x0#4 0x7#4).mpr ⟨by simp [encode], BitVec.eq_of_toNat_eq (digit3_ofXNN _ _ _), BitVec.eq_of_toNat_eq (digit4_ofXNN _ _ _)⟩)

theorem EncodeMatchesRow.ldVxK (x : RegIdx) : EncodeMatchesRow.Statement (.ldVxK x) := by
  refine ⟨row_mem _, ?_⟩
  exact beq_iff_eq.mpr ((and_F0FF _ 0xF#4 0x0#4 0xA#4).mpr ⟨by simp [encode], BitVec.eq_of_toNat_eq (digit3_ofXNN _ _ _), BitVec.eq_of_toNat_eq (digit4_ofXNN _ _ _)⟩)

theorem EncodeMatchesRow.ldDtVx (x : RegIdx) : EncodeMatchesRow.Statement (.ldDtVx x) := by
  refine ⟨row_mem _, ?_⟩
  exact beq_iff_eq.mpr ((and_F0FF _ 0xF#4 0x1#4 0x5#4).mpr ⟨by simp [encode], BitVec.eq_of_toNat_eq (digit3_ofXNN _ _ _), BitVec.eq_of_toNat_eq (digit4_ofXNN _ _ _)⟩)

theorem EncodeMatchesRow.ldStVx (x : RegIdx) : EncodeMatchesRow.Statement (.ldStVx x) := by
  refine ⟨row_mem _, ?_⟩
  exact beq_iff_eq.mpr ((and_F0FF _ 0xF#4 0x1#4 0x8#4).mpr ⟨by simp [encode], BitVec.eq_of_toNat_eq (digit3_ofXNN _ _ _), BitVec.eq_of_toNat_eq (digit4_ofXNN _ _ _)⟩)

theorem EncodeMatchesRow.addI (x : RegIdx) : EncodeMatchesRow.Statement (.addI x) := by
  refine ⟨row_mem _, ?_⟩
  exact beq_iff_eq.mpr ((and_F0FF _ 0xF#4 0x1#4 0xE#4).mpr ⟨by simp [encode], BitVec.eq_of_toNat_eq (digit3_ofXNN _ _ _), BitVec.eq_of_toNat_eq (digit4_ofXNN _ _ _)⟩)

theorem EncodeMatchesRow.ldF (x : RegIdx) : EncodeMatchesRow.Statement (.ldF x) := by
  refine ⟨row_mem _, ?_⟩
  exact beq_iff_eq.mpr ((and_F0FF _ 0xF#4 0x2#4 0x9#4).mpr ⟨by simp [encode], BitVec.eq_of_toNat_eq (digit3_ofXNN _ _ _), BitVec.eq_of_toNat_eq (digit4_ofXNN _ _ _)⟩)

theorem EncodeMatchesRow.ldB (x : RegIdx) : EncodeMatchesRow.Statement (.ldB x) := by
  refine ⟨row_mem _, ?_⟩
  exact beq_iff_eq.mpr ((and_F0FF _ 0xF#4 0x3#4 0x3#4).mpr ⟨by simp [encode], BitVec.eq_of_toNat_eq (digit3_ofXNN _ _ _), BitVec.eq_of_toNat_eq (digit4_ofXNN _ _ _)⟩)

theorem EncodeMatchesRow.storeRegs (x : RegIdx) : EncodeMatchesRow.Statement (.storeRegs x) := by
  refine ⟨row_mem _, ?_⟩
  exact beq_iff_eq.mpr ((and_F0FF _ 0xF#4 0x5#4 0x5#4).mpr ⟨by simp [encode], BitVec.eq_of_toNat_eq (digit3_ofXNN _ _ _), BitVec.eq_of_toNat_eq (digit4_ofXNN _ _ _)⟩)

theorem EncodeMatchesRow.loadRegs (x : RegIdx) : EncodeMatchesRow.Statement (.loadRegs x) := by
  refine ⟨row_mem _, ?_⟩
  exact beq_iff_eq.mpr ((and_F0FF _ 0xF#4 0x6#4 0x5#4).mpr ⟨by simp [encode], BitVec.eq_of_toNat_eq (digit3_ofXNN _ _ _), BitVec.eq_of_toNat_eq (digit4_ofXNN _ _ _)⟩)

end Sys2Proof.Laws
end

