-- ==== Sys2Proof/Laws/Step.lean ====
section
/-! SUPPORT. Laws/Step.lean: what a fetch, a step and a run can answer, said once. -/

namespace Sys2Proof.Machine

variable (s : State)

/-! ### The fetch -/

/-- With both bytes in range, the fetched word is the two bytes, big-endian. -/
theorem State.fetch_of_lt (h : s.pc.toNat + 1 < 4096) :
    s.fetch = .ok (bigEndian (s.mem.read s.pc.toNat) (s.mem.read (s.pc.toNat + 1))) := by
  have h1 : rangeFault s.pc.toNat 1 .fetch = none := rangeFault_eq_none.mpr (by omega)
  have h2 : rangeFault (s.pc.toNat + 1) 1 .fetch = none := rangeFault_eq_none.mpr (by omega)
  simp only [State.fetch, fetchByte, h1, h2]

/-- Otherwise the fetch finds the fault of its lowest byte of 4096 or more. -/
theorem State.fetch_of_ge (h : 4096 ≤ s.pc.toNat + 1) :
    s.fetch = .error (.memoryOutOfRange (max s.pc.toNat 4096) .fetch) := by
  by_cases hp : s.pc.toNat = 4095
  · simp only [State.fetch, fetchByte, hp]
    rfl
  · have h1 := rangeFault_eq_some (a := s.pc.toNat) (n := 1) (k := .fetch) (by omega) (by omega)
    simp only [State.fetch, fetchByte, h1]

/-! ### The step -/

/-- A step with an operation pending performs it. -/
theorem step_of_pending {op : HostOp} {rest : List HostOp} (h : s.pending = op :: rest) :
    step s = perform op { s with pending := rest } := by
  simp only [step, h]

/-- A step with no operation pending, or a tick at the head, is a tick. -/
theorem step_of_tick (h : s.pending = [] ∨ s.pending.head? = some .tick) :
    step s = tick { s with pending := s.pending.tail } := by
  rcases h with h | h
  · simp only [step, h, List.tail_nil]
    rw [show ({ s with pending := [] } : State) = s by rw [← h]]
  · cases hp : s.pending with
    | nil => simp [hp] at h
    | cons op rest =>
      obtain rfl : op = .tick := by simpa [hp] using h
      simp only [step, hp, perform, List.tail_cons]

/-- A tick answers a next state only on a state that is not faulted, and then it is one cycle. -/
theorem tick_eq_next {t : State} : tick s = .next t ↔ s.fault = none ∧ s.cycle = .next t := s.ifRunning_eq_next

/-- One cycle: the fetch's fault, the fault of a word that does not decode, or the decoded instruction with the PC advanced. -/
theorem State.cycle_cases :
    (∃ cause, s.fetch = .error cause ∧ s.cycle = .next (s.raiseAt s.pc cause)) ∨
    (∃ w e, s.fetch = .ok w ∧ decode w = .error e ∧
      s.cycle = .next (s.advance.raise (.unimplementedOpcode w))) ∨
    (∃ w i, s.fetch = .ok w ∧ decode w = .ok i ∧ s.cycle = exec i s.advance) := by
  unfold State.cycle
  cases hf : s.fetch with
  | error cause => exact .inl ⟨cause, rfl, rfl⟩
  | ok w =>
    cases hd : decode w with
    | error e => exact .inr (.inl ⟨w, e, rfl, hd, by simp only [hd]⟩)
    | ok i => exact .inr (.inr ⟨w, i, rfl, hd, by simp only [hd]⟩)

/-- Undoing the fetch advance. -/
theorem add_two_sub_two (a : Word) : a + 2 - 2 = a := by simp

/-! ### Runs of the core -/

/-- The step of the core is the machine's. -/
theorem core_step : Sys2Proof.core.step s = step s := rfl

/-- A run of one step more ends where the rest of it ends. -/
theorem run_succ_of_next {k : Nat} {u : State} (h : step s = .next u) :
    Sys2Proof.core.run (k + 1) s = Sys2Proof.core.run k u := by
  have e : Sys2Proof.core.step s = .next u := h
  simp only [Host.Core.run, e]

/-- A run of one step more reaches a state exactly when its first step answers a next state from which the rest reaches it. -/
theorem run_succ_eq_next {k : Nat} {t : State} :
    Sys2Proof.core.run (k + 1) s = .next t ↔ ∃ u, step s = .next u ∧ Sys2Proof.core.run k u = .next t := by
  constructor
  · intro h
    cases hs : step s with
    | next u => exact ⟨u, rfl, by rwa [run_succ_of_next s hs] at h⟩
    | fault r =>
      have e : Sys2Proof.core.step s = .fault r := hs
      simp only [Host.Core.run, e] at h; cases h
    | refused r =>
      have e : Sys2Proof.core.step s = .refused r := hs
      simp only [Host.Core.run, e] at h; cases h
  · rintro ⟨u, hs, h⟩
    rwa [run_succ_of_next s hs]

end Sys2Proof.Machine
end

