-- ==== Sys2Proof/Tests/Slice0.lean ====
section
/-! SUPPORT. Tests/Slice0.lean: tests of the model. Expected values are those of 95_test_vectors.md (the vector's id stands in each
comment) or worked out by hand from the rule named; the words are written out from the patterns of 30_encoding.md R51. Then a
witness for the hypotheses of every statement that has some. -/

namespace Sys2Proof.Tests

open Sys2Proof Sys2Proof.Machine Sys2Proof.Claims

/-! ## Well-formed words: one ill-formed neighbour for each digit the map checks (R53) -/

theorem test_wellFormed_accepts : wellFormed 0x00EE#16 = true ∧ wellFormed 0x8124#16 = true ∧ wellFormed 0xF265#16 = true := by decide

theorem test_illFormed_group0 : wellFormed 0x0123#16 = false ∧ wellFormed 0x00E1#16 = false := by decide

theorem test_illFormed_group5 : wellFormed 0x5121#16 = false := by decide

theorem test_illFormed_group8 : wellFormed 0x8128#16 = false ∧ wellFormed 0x812F#16 = false := by decide

theorem test_illFormed_group9 : wellFormed 0x9121#16 = false := by decide

theorem test_illFormed_groupE : wellFormed 0xE1A2#16 = false := by decide

theorem test_illFormed_groupF : wellFormed 0xF1FF#16 = false := by decide

/-! ## Decoding: a word of every instruction, and the words that are refused -/

theorem test_decode_group0 : decode 0b0000000000000000#16 = .ok .nop ∧ decode 0b0000000011100000#16 = .ok .cls ∧
    decode 0b0000000011101110#16 = .ok .ret ∧ decode 0x0123#16 = .error (.unimplementedOpcode 0x0123#16) := by decide

theorem test_decode_addresses : decode 0b0001001000110100#16 = .ok (.jp 0x234#12) ∧ decode 0b0010001100010000#16 = .ok (.call 0x310#12) ∧
    decode 0b1010001100000000#16 = .ok (.ldI 0x300#12) ∧ decode 0b1011111111111111#16 = .ok (.jpV0 0xFFF#12) := by decide

theorem test_decode_immediates : decode 0b0011001101000010#16 = .ok (.seByte 0x3#4 0x42#8) ∧
    decode 0b0100001101000010#16 = .ok (.sneByte 0x3#4 0x42#8) ∧ decode 0b0110101000111111#16 = .ok (.ldByte 0xA#4 0x3F#8) ∧
    decode 0b0111000111111111#16 = .ok (.addByte 0x1#4 0xFF#8) ∧ decode 0b1100001100001111#16 = .ok (.rnd 0x3#4 0x0F#8) := by decide

theorem test_decode_register_skips : decode 0b0101000100100000#16 = .ok (.seReg 0x1#4 0x2#4) ∧
    decode 0b1001000100100000#16 = .ok (.sneReg 0x1#4 0x2#4) ∧ decode 0x5121#16 = .error (.unimplementedOpcode 0x5121#16) ∧
    decode 0x9121#16 = .error (.unimplementedOpcode 0x9121#16) := by decide

theorem test_decode_alu : decode 0b1000000100100000#16 = .ok (.ldReg 0x1#4 0x2#4) ∧ decode 0b1000000100100001#16 = .ok (.orReg 0x1#4 0x2#4) ∧
    decode 0b1000000100100010#16 = .ok (.andReg 0x1#4 0x2#4) ∧ decode 0b1000000100100011#16 = .ok (.xorReg 0x1#4 0x2#4) ∧
    decode 0b1000000100100100#16 = .ok (.addReg 0x1#4 0x2#4) := by decide

theorem test_decode_alu_flags : decode 0b1000000100100101#16 = .ok (.subReg 0x1#4 0x2#4) ∧ decode 0b1000000100100110#16 = .ok (.shr 0x1#4 0x2#4) ∧
    decode 0b1000000100100111#16 = .ok (.subnReg 0x1#4 0x2#4) ∧ decode 0b1000000100101110#16 = .ok (.shl 0x1#4 0x2#4) ∧
    decode 0x8128#16 = .error (.unimplementedOpcode 0x8128#16) := by decide

theorem test_decode_draw : decode 0b1101101010110001#16 = .ok (.drw 0xA#4 0xB#4 0x1#4) ∧ decode 0xD120#16 = .ok (.drw 0x1#4 0x2#4 0x0#4) := by decide

theorem test_decode_keys : decode 0b1110001110011110#16 = .ok (.skp 0x3#4) ∧ decode 0b1110001110100001#16 = .ok (.sknp 0x3#4) ∧
    decode 0xE1A2#16 = .error (.unimplementedOpcode 0xE1A2#16) := by decide

theorem test_decode_timers : decode 0b1111010000000111#16 = .ok (.ldVxDt 0x4#4) ∧ decode 0b1111001100001010#16 = .ok (.ldVxK 0x3#4) ∧
    decode 0b1111001100010101#16 = .ok (.ldDtVx 0x3#4) ∧ decode 0b1111001100011000#16 = .ok (.ldStVx 0x3#4) := by decide

theorem test_decode_index : decode 0b1111001000011110#16 = .ok (.addI 0x2#4) ∧ decode 0b1111101000101001#16 = .ok (.ldF 0xA#4) ∧
    decode 0b1111000000110011#16 = .ok (.ldB 0x0#4) ∧ decode 0b1111001001010101#16 = .ok (.storeRegs 0x2#4) ∧
    decode 0b1111001001100101#16 = .ok (.loadRegs 0x2#4) ∧ decode 0xF1FF#16 = .error (.unimplementedOpcode 0xF1FF#16) := by decide

theorem test_decode_bytes : decodeBytes [0x12, 0x34, 0xFF] = .ok (.jp 0x234#12, [0xFF]) ∧ decodeBytes [0x12] = .error .tooShort ∧
    decodeTableWord 16 0x8124 = some (.addReg 0x1#4 0x2#4) ∧ decodeTableWord 16 0x5121 = none := by decide

/-! ## One step on small states -/

/-- The state after the word is fetched and run from `s` (at 0x200, unless `s` has another PC), if a step gives one. -/
def after (s : State) (w : Nat) : Option State :=
  match step (s.withFetchWord 16 w) with
  | .next t => some t
  | _ => none

/-- Reset, with one register set. -/
def r1 (x : RegIdx) (a : Byte) : State := State.reset.setReg x a

/-- Reset, with two registers set. -/
def r2 (x : RegIdx) (a : Byte) (y : RegIdx) (b : Byte) : State := (r1 x a).setReg y b

/-- Reset, with I set. -/
def atI (a : Word) : State := State.reset.setI a

/-- Reset, with a pressed key. -/
def pressed (k : Nat) : State := State.reset.setKey k true

/-- Reset, with `n` live stack entries, each `a`. -/
def nested (n : Fin 17) (a : Word) : State := { State.reset with sp := n, stack := Vector.replicate 16 a }

/-- What a test looks at: PC, the register `x`, VF, and whether there is a fault. -/
def seen (x : RegIdx) (o : Option State) : Option (Word × Byte × Byte × Option FaultRecord) :=
  o.map fun t => (t.pc, t.reg x, t.reg 0xF#4, t.fault)

/-- CT-1 -/
theorem test_nop : after State.reset 0x0000 = some { State.reset with pc := 0x202#16 } := by decide +kernel

/-- CT-2, CT-3: JP, also to its own address. -/
theorem test_jp : (after State.reset 0x1204).map (·.pc) = some 0x204#16 ∧ (after State.reset 0x1200).map (·.pc) = some 0x200#16 := by decide

/-- CT-4 -/
theorem test_call : (after (State.reset.setPc 0x204#16) 0x2210).map (fun t => (t.pc, t.sp, t.stack[0])) = some (0x210#16, 1, 0x206#16) := by decide

/-- CT-7 -/
theorem test_call_overflow : (after (nested 16 0x202#16) 0x2300).map (fun t => (t.pc, t.sp, t.fault)) =
    some (0x200#16, 16, some ⟨0x200#16, .stackOverflow⟩) := by decide

/-- CT-5 -/
theorem test_ret : (after (nested 1 0x206#16) 0x00EE).map (fun t => (t.pc, t.sp, t.stack[0])) = some (0x206#16, 0, 0x206#16) := by decide

/-- CT-6 -/
theorem test_ret_underflow : (after State.reset 0x00EE).map (fun t => (t.pc, t.sp, t.fault)) =
    some (0x200#16, 0, some ⟨0x200#16, .stackUnderflow⟩) := by decide

/-- CT-9, CT-11: the sum is not masked, and V0 is the base whatever digit2 holds. -/
theorem test_jpV0 : (after (r1 0x0#4 0xFF#8) 0xBFFF).map (·.pc) = some 0x10FE#16 ∧
    (after (r1 0x5#4 0x77#8) 0xB500).map (·.pc) = some 0x500#16 := by decide

/-- SK-1, SK-2 -/
theorem test_seByte : (after (r1 0x3#4 0x42#8) 0x3342).map (·.pc) = some 0x204#16 ∧
    (after (r1 0x3#4 0x41#8) 0x3342).map (·.pc) = some 0x202#16 := by decide

/-- SK-3, SK-4 -/
theorem test_sneByte : (after (r1 0x3#4 0x41#8) 0x4342).map (·.pc) = some 0x204#16 ∧
    (after (r1 0x3#4 0x42#8) 0x4342).map (·.pc) = some 0x202#16 := by decide

/-- SK-5, SK-6 -/
theorem test_seReg : (after (r2 0x1#4 7#8 0x2#4 7#8) 0x5120).map (·.pc) = some 0x204#16 ∧
    (after (r2 0x1#4 7#8 0x2#4 8#8) 0x5120).map (·.pc) = some 0x202#16 := by decide

/-- SK-7, SK-8 -/
theorem test_sneReg : (after (r2 0x1#4 7#8 0x2#4 8#8) 0x9120).map (·.pc) = some 0x204#16 ∧
    (after (r1 0x1#4 7#8) 0x9110).map (·.pc) = some 0x202#16 := by decide

/-- AL-1 -/
theorem test_ldByte : seen 0xA#4 (after State.reset 0x6A3F) = some (0x202#16, 0x3F#8, 0#8, none) := by decide

/-- AL-2 -/
theorem test_addByte : seen 0x1#4 (after (r2 0x1#4 0xFF#8 0xF#4 0x55#8) 0x7101) = some (0x202#16, 0#8, 0x55#8, none) := by decide

/-- AL-4 -/
theorem test_ldReg : seen 0x1#4 (after (r1 0x2#4 9#8) 0x8120) = some (0x202#16, 9#8, 0#8, none) := by decide

/-- AL-5 -/
theorem test_orReg : seen 0x1#4 (after ((r2 0x1#4 0x0F#8 0x2#4 0xF0#8).setReg 0xF#4 0x55#8) 0x8121) = some (0x202#16, 0xFF#8, 0x55#8, none) := by
  decide

/-- AL-6 -/
theorem test_andReg : seen 0x1#4 (after ((r2 0x1#4 0x3C#8 0x2#4 0x0F#8).setReg 0xF#4 0x55#8) 0x8122) = some (0x202#16, 0x0C#8, 0x55#8, none) := by
  decide

/-- AL-7 -/
theorem test_xorReg : seen 0x1#4 (after ((r2 0x1#4 0x3C#8 0x2#4 0x0F#8).setReg 0xF#4 0x55#8) 0x8123) = some (0x202#16, 0x33#8, 0x55#8, none) := by
  decide

/-- AL-9, AL-10 -/
theorem test_addReg : seen 0x1#4 (after (r2 0x1#4 0xFF#8 0x2#4 1#8) 0x8124) = some (0x202#16, 0#8, 1#8, none) ∧
    seen 0x1#4 (after (r2 0x1#4 0x80#8 0x2#4 0x7F#8) 0x8124) = some (0x202#16, 0xFF#8, 0#8, none) := by decide

/-- AL-12, AL-14: VF as destination ends as the flag (D5), and as operand is read before. -/
theorem test_addReg_vF : seen 0xF#4 (after (r2 0xF#4 0xF0#8 0x2#4 0x20#8) 0x8F24) = some (0x202#16, 1#8, 1#8, none) ∧
    seen 0x1#4 (after (r2 0x1#4 1#8 0xF#4 0xFF#8) 0x81F4) = some (0x202#16, 0#8, 1#8, none) := by decide

/-- AL-15, AL-17 -/
theorem test_subReg : seen 0x1#4 (after (r2 0x1#4 5#8 0x2#4 7#8) 0x8125) = some (0x202#16, 0xFE#8, 0#8, none) ∧
    seen 0x1#4 (after (r2 0x1#4 5#8 0x2#4 5#8) 0x8125) = some (0x202#16, 0#8, 1#8, none) := by decide

/-- AL-24, AL-25: Vy is not read; VF as destination ends as the flag. -/
theorem test_shr : seen 0x1#4 (after (r2 0x1#4 4#8 0x2#4 0xFF#8) 0x8126) = some (0x202#16, 2#8, 0#8, none) ∧
    seen 0xF#4 (after (r1 0xF#4 3#8) 0x8F06) = some (0x202#16, 1#8, 1#8, none) := by decide

/-- AL-27, AL-28 -/
theorem test_subnReg : seen 0x1#4 (after (r1 0x1#4 1#8) 0x8127) = some (0x202#16, 0xFF#8, 0#8, none) ∧
    seen 0x1#4 (after (r2 0x1#4 5#8 0x2#4 7#8) 0x8127) = some (0x202#16, 2#8, 1#8, none) := by decide

/-- AL-30, AL-31 -/
theorem test_shl : seen 0x1#4 (after (r1 0x1#4 0x80#8) 0x810E) = some (0x202#16, 0#8, 1#8, none) ∧
    seen 0x1#4 (after (r1 0x1#4 0x7F#8) 0x810E) = some (0x202#16, 0xFE#8, 0#8, none) := by decide

/-- AL-36: with NN = FF the register takes the draw itself. -/
theorem test_rnd : (after State.reset 0xC3FF).map (fun t => (t.reg 0x3#4, t.draws)) = some (Config.randomByte 0 &&& 0xFF#8, 1) := rfl

/-- MI-1 -/
theorem test_ldI : (after State.reset 0xA300).map (·.i) = some 0x300#16 := by decide

/-- MI-3, MI-4 -/
theorem test_addI : (after ((atI 0xFFFF#16).setReg 0x2#4 1#8) 0xF21E).map (fun t => (t.i, t.reg 0xF#4)) = some (0#16, 0#8) ∧
    (after ((atI 0x0FFF#16).setReg 0x2#4 1#8) 0xF21E).map (fun t => (t.i, t.fault)) = some (0x1000#16, none) := by decide

/-- MI-9, MI-11: Vx is not masked. -/
theorem test_ldF : (after (r1 0xA#4 0xA#8) 0xFA29).map (·.i) = some 0x32#16 ∧ (after (r1 0x1#4 0xFF#8) 0xF129).map (·.i) = some 0x4FB#16 := by decide

/-- MI-7 -/
theorem test_ldB : (after ((atI 0xFFD#16).setReg 0x0#4 0xFE#8) 0xF033).map (fun t => (t.mem.readBlock 0xFFD 3, t.i)) =
    some ([2#8, 5#8, 4#8], 0xFFD#16) := by decide

/-- MI-8 -/
theorem test_ldB_outOfRange : (after ((atI 0xFFE#16).setReg 0x0#4 0xFE#8) 0xF033).map (fun t => (t.mem.readBlock 0xFFE 2, t.fault)) =
    some ([0#8, 0#8], some ⟨0x200#16, .memoryOutOfRange 0x1000 .write⟩) := by decide

/-- MI-12 -/
theorem test_storeRegs : (after (((r2 0x0#4 1#8 0x1#4 2#8).setReg 0x2#4 3#8).setI 0x400#16) 0xF255).map (fun t => (t.mem.readBlock 0x400 4, t.i)) =
    some ([1#8, 2#8, 3#8, 0#8], 0x400#16) := by decide

/-- MI-18: a store into the font is performed. -/
theorem test_storeRegs_font : (after (r1 0x0#4 0xAA#8) 0xF055).map (·.mem.readBlock 0 2) = some [0xAA#8, 0x90#8] := by decide

/-- MI-17: the font's first glyph, with the FONTSET of R31. -/
theorem test_loadRegs : (after (r1 0x5#4 0x77#8) 0xF465).map (fun t => (t.v.toList.take 6, t.i)) =
    some ([0xF0#8, 0x90#8, 0x90#8, 0x90#8, 0xF0#8, 0x77#8], 0#16) := by decide

/-- MI-16 -/
theorem test_loadRegs_outOfRange : seen 0x0#4 (after ((atI 0x1000#16).setReg 0x0#4 9#8) 0xF065) =
    some (0x200#16, 9#8, 0#8, some ⟨0x200#16, .memoryOutOfRange 0x1000 .read⟩) := by decide

/-- DS-1 -/
theorem test_cls : (after (State.reset.setFb (State.reset.fb.flip 5 5)) 0x00E0).map (·.fb.pixel 5 5) = some false := by decide

/-- DS-2, with the sprite row FF at 0x300. -/
theorem test_drw_wraps : (after (((r1 0xA#4 63#8).setI 0x300#16).setMem [(0x300, 0xFF#8)]) 0xDAB1).map
    (fun t => ([63, 0, 6, 7].map (t.fb.pixel · 0), t.fb.pixel 0 1, t.reg 0xF#4)) = some ([true, true, true, false], false, 0#8) := by decide

/-- DS-3, for one of the pixels on before: it is turned off and VF is 1. -/
theorem test_drw_collides : (after ((((r1 0xA#4 63#8).setI 0x300#16).setMem [(0x300, 0x80#8)]).setFb (State.reset.fb.flip 63 0)) 0xDAB1).map
    (fun t => (t.fb.pixel 63 0, t.reg 0xF#4)) = some (false, 1#8) := by decide

/-- KY-1, KY-2 -/
theorem test_skp : (after ((pressed 9).setReg 0x3#4 9#8) 0xE39E).map (·.pc) = some 0x204#16 ∧
    (after (r1 0x3#4 9#8) 0xE39E).map (·.pc) = some 0x202#16 := by decide

/-- KY-5 -/
theorem test_skp_badKey : seen 0x3#4 (after (r1 0x3#4 16#8) 0xE39E) =
    some (0x200#16, 16#8, 0#8, some ⟨0x200#16, .keyIndexOutOfRange 16#8⟩) := by decide

/-- KY-3, KY-4 -/
theorem test_sknp : (after (r1 0x3#4 9#8) 0xE3A1).map (·.pc) = some 0x204#16 ∧
    (after ((pressed 9).setReg 0x3#4 9#8) 0xE3A1).map (·.pc) = some 0x202#16 := by decide

/-- KY-6, KY-7 -/
theorem test_ldVxK : seen 0x3#4 (after State.reset 0xF30A) = some (0x200#16, 0#8, 0#8, none) ∧
    seen 0x3#4 (after ((pressed 5).setKey 2 true) 0xF30A) = some (0x202#16, 2#8, 0#8, none) := by decide

/-- TM-4 -/
theorem test_ldVxDt : seen 0x4#4 (after (State.reset.setDt 6#8) 0xF407) = some (0x202#16, 6#8, 0#8, none) := by decide

/-- TM-5 -/
theorem test_ldDtVx : (after (r1 0x3#4 9#8) 0xF315).map (fun t => (t.dt, t.st)) = some (9#8, 0#8) := by decide

/-- TM-6 -/
theorem test_ldStVx : (after (r1 0x3#4 9#8) 0xF318).map (fun t => (t.dt, t.st)) = some (0#8, 9#8) := by decide

/-- FD-2, FD-4: the last word of memory is fetched; at FFF the second byte faults. -/
theorem test_fetch_edges : (after (State.reset.setPc 0xFFE#16) 0x0000).map (·.pc) = some 0x1000#16 ∧
    step (State.reset.setPc 0xFFF#16) matches .next { pc := 0xFFF#16, fault := some ⟨0xFFF#16, .memoryOutOfRange 0x1000 .fetch⟩, .. } := by
  decide

/-- FD-5 -/
theorem test_unimplemented : seen 0x0#4 (after State.reset 0x5121) =
    some (0x200#16, 0#8, 0#8, some ⟨0x200#16, .unimplementedOpcode 0x5121#16⟩) := by decide

/-- TM-3 (one of its two ticks) and TM-1. -/
theorem test_tickTimers : ((State.reset.setDt 0xFF#8).setSt 2#8).tickTimers.dt = 0xFE#8 ∧ ((State.reset.setDt 0xFF#8).setSt 2#8).tickTimers.st = 1#8 ∧
    (State.reset.setDt 1#8).tickTimers.dt = 0#8 ∧ State.reset.tickTimers.dt = 0#8 := by decide

/-- HO-2, KY-9: load writes from 0x200 on; a key index of 16 is refused. -/
theorem test_load_and_refusal : (State.reset.load [0xAA#8, 0xBB#8]).mem = [(0x200, 0xAA#8), (0x201, 0xBB#8)] ∧
    (State.reset.setKey 16 true).refused = true ∧ (State.reset.setKey 16 true).keys = State.reset.keys := by decide

/-- HO-5: reset erases the loaded bytes and keeps the refusal mark. -/
theorem test_hostReset : ((State.reset.load [0xAA#8]).refuse.hostReset.mem, (State.reset.load [0xAA#8]).refuse.hostReset.refused) = ([], true) := by decide

/-! ## A witness for the hypotheses of each statement -/

/-- A state whose next word is `w`, at 0x200. -/
def holding (w : Nat) : State := State.reset.withFetchWord 16 w

/-- A faulted state. -/
def faulted : State := State.reset.raiseAt 0x200#16 .stackUnderflow

/-- StepExecutesTheWordAtThePc: with no operation pending, and with a tick at the head, at the last fetchable PC. -/
theorem witness_StepExecutesTheWordAtThePc :
    ((holding 0x1234).fault = none ∧ TickIsNext (holding 0x1234) ∧ (holding 0x1234).pc.toNat + 1 < 4096 ∧
      decode (wordAtPc (holding 0x1234)) = .ok (.jp 0x234#12)) ∧
    (let s : State := { State.reset with pc := 4094#16, pending := [.tick] }
     s.fault = none ∧ TickIsNext s ∧ s.pc.toNat + 1 < 4096 ∧ decode (wordAtPc s) = .ok .nop) :=
  ⟨⟨rfl, .inl rfl, by decide, by decide⟩, rfl, .inr rfl, by decide, by decide⟩

/-- FetchOutOfRangeFaults, at both ends of its range. -/
theorem witness_FetchOutOfRangeFaults :
    (let s := State.reset.setPc 4095#16; s.fault = none ∧ TickIsNext s ∧ 4095 ≤ s.pc.toNat) ∧
    (let s := State.reset.setPc 65535#16; s.fault = none ∧ TickIsNext s ∧ 4095 ≤ s.pc.toNat) :=
  ⟨⟨rfl, .inl rfl, by decide⟩, rfl, .inl rfl, by decide⟩

theorem witness_UnimplementedWordFaults : (holding 0x5121).fault = none ∧ TickIsNext (holding 0x5121) ∧
    (holding 0x5121).pc.toNat + 1 < 4096 ∧ ∀ p ∈ opRows, wordAtPc (holding 0x5121) &&& p.mask ≠ p.value :=
  ⟨rfl, .inl rfl, by decide, by decide +kernel⟩

/-- FaultedStateHasNoStep: each clause. -/
theorem witness_FaultedStateHasNoStep :
    (faulted.fault = some ⟨0x200#16, .stackUnderflow⟩ ∧ faulted.pending.head? ≠ some .getDisplay) ∧
    (let s : State := { faulted with pending := [.getDisplay] }
     s.fault = some ⟨0x200#16, .stackUnderflow⟩ ∧ s.pending.head? = some .getDisplay) := by
  refine ⟨⟨rfl, by decide⟩, rfl, rfl⟩

theorem witness_RaisedFaultKeepsEveryValue : (holding 0x00EE).fault = none ∧ ∃ t, step (holding 0x00EE) = .next t ∧
    t.fault = some ⟨0x200#16, .stackUnderflow⟩ := ⟨rfl, _, rfl, by decide⟩

/-- InstructionFaultsExactlyWhenListed: an instruction that faults and one that does not, from states that are not faulted. -/
theorem witness_InstructionFaultsExactlyWhenListed : State.reset.fault = none ∧ FaultsOn .ret State.reset ∧
    ¬ FaultsOn (.call 0x300#12) State.reset ∧ FaultsOn (.drw 0 0 1#4) (atI 4096#16) ∧ ¬ FaultsOn (.drw 0 0 1#4) (atI 4095#16) := by
  refine ⟨rfl, ?_, ?_, ?_, ?_⟩ <;> simp only [FaultsOn] <;> decide

theorem witness_EveryStepKeepsTheInvariant : (holding 0x1234).Inv ∧ ∃ t, step (holding 0x1234) = .next t :=
  ⟨⟨by decide, by decide, by decide⟩, _, rfl⟩

theorem witness_SafeRunIsSafeAtEveryPrefix : 0 ≤ 1 ∧ SafeRun 1 (holding 0x1234) :=
  ⟨by decide, _, rfl, rfl, rfl⟩

theorem witness_EncodeDecodeRoundTrip : decode 0x1234#16 = .ok (.jp 0x234#12) := by decide

/-- DecodeAcceptsExactlyTheOpcodeMap: each clause. -/
theorem witness_DecodeAcceptsExactlyTheOpcodeMap : decode 0x00EE#16 = .ok .ret ∧ (∃ p ∈ opRows, 0x00EE#16 &&& p.mask = p.value) ∧
    ¬ ∃ p ∈ opRows, 0x5121#16 &&& p.mask = p.value := by decide

theorem witness_OpcodePatternsAreDisjoint : (⟨0xFFFF, 0x00EE⟩ : OpRow) ∈ opRows ∧ 0x00EE#16 &&& 0xFFFF#16 = 0x00EE#16 := by decide

/-- The words every decoding clause speaks of exist: one for each mask. -/
theorem witness_DecodesTo : 0x1234#16 &&& 0xF000#16 = 0x1000#16 ∧ 0x8124#16 &&& 0xF00F#16 = 0x8004#16 ∧
    0xF265#16 &&& 0xF0FF#16 = 0xF065#16 ∧ 0x00E0#16 &&& 0xFFFF#16 = 0x00E0#16 := by decide

/-- CallPushesTheReturnAddress, at both ends of its range. -/
theorem witness_CallPushesTheReturnAddress : (nested 0 0).sp.val < 16 ∧ (nested 15 0).sp.val < 16 := by decide

/-- ReturnPopsTheLastEntry, at both ends of its range. -/
theorem witness_ReturnPopsTheLastEntry : (nested 1 0).sp.val = 0 + 1 ∧ (nested 16 0).sp.val = 15 + 1 ∧ 15 < 16 := by decide

theorem witness_ReturnResumesAfterTheCall : State.reset.sp.val < 16 ∧
    ∃ t, exec (.call 0x300#12) State.reset = .next t ∧ t.sp = t.sp ∧ t.stack = t.stack := ⟨by decide, _, rfl, rfl, rfl⟩

/-- StackFaults: each clause. -/
theorem witness_StackFaults : (nested 0 0).sp.val = 0 ∧ (nested 16 0).sp.val = 16 := by decide

theorem witness_PcChangesOnlyAsListed : (holding 0).fault = none ∧ ∃ t, exec .nop (holding 0) = .next t ∧ t.fault = none :=
  ⟨rfl, _, rfl, rfl⟩

theorem witness_SelfJumpLeavesTheStateUnchanged : (holding 0x1200).fault = none ∧ TickIsNext (holding 0x1200) ∧
    (holding 0x1200).pc.toNat + 1 < 4096 ∧ (wordAtPc (holding 0x1200)).toNat = 0x1000 + (holding 0x1200).pc.toNat :=
  ⟨rfl, .inl rfl, by decide, by decide⟩

/-- The statements about the flag instructions: a destination that is not VF. -/
theorem witness_data_clause : (0xE#4 : RegIdx) ≠ 0xF#4 := by decide

/-- RandomByteIsMasked: a bit outside NN. -/
theorem witness_RandomByteIsMasked : (0x0F#8).getLsbD 4 = false := by decide

theorem witness_RegistersChangeOnlyAsNamed : ∃ t, exec (.ldByte 0x1#4 5#8) State.reset = .next t ∧
    t.reg 0x1#4 ≠ State.reset.reg 0x1#4 := ⟨_, rfl, by decide⟩

/-- GlyphAddressAndBytes: the last digit, with the font as reset left it. -/
theorem witness_GlyphAddressAndBytes : ((r1 0x1#4 15#8).reg 0x1#4).toNat < 16 ∧
    ∀ a, a < 80 → (r1 0x1#4 15#8).mem.read a = State.reset.mem.read a := ⟨by decide, fun _ _ => rfl⟩

/-- DecimalDigitsStored, at the last address. -/
theorem witness_DecimalDigitsStored : (atI 4093#16).mem.wf ∧ (atI 4093#16).i.toNat + 2 < 4096 := by decide

/-- RegisterBlockStored and RegisterBlockLoaded, at the last address for all sixteen registers. -/
theorem witness_RegisterBlocks : (atI 4080#16).mem.wf ∧ (atI 4080#16).i.toNat + (0xF#4).toNat < 4096 := by decide

/-- DataAccessOutOfRangeFaults: each clause, at its first address. -/
theorem witness_DataAccessOutOfRangeFaults : 4096 ≤ (atI 4094#16).i.toNat + 2 ∧ 4096 ≤ (atI 4081#16).i.toNat + (0xF#4).toNat ∧
    (0x2#4).toNat > 0 ∧ 4096 ≤ (atI 4095#16).i.toNat + (0x2#4).toNat - 1 := by decide

theorem witness_CanonicalMemoriesAreEqualWhenTheyReadEqual :
    Memory.wf [(0x200, 1#8), (0xFFF, 2#8)] ∧ ∀ a, Memory.read [(0x200, 1#8), (0xFFF, 2#8)] a = Memory.read [(0x200, 1#8), (0xFFF, 2#8)] a :=
  ⟨by decide, fun _ => rfl⟩

/-- DrawFlipsTheSpritePixels: N = 0, and a sprite that ends at the last address, with a pixel it hits and one it does not, with and
without a collision. -/
theorem witness_DrawFlipsTheSpritePixels :
    (0x0#4 : Nibble) = 0 ∧ (atI 4095#16).i.toNat + (0x1#4).toNat ≤ 4096 ∧
    SpriteHits State.reset 0x0#4 0x0#4 0x1#4 0 0 ∧ ¬ SpriteHits State.reset 0x0#4 0x0#4 0x0#4 0 0 ∧
    (let s := State.reset.setFb (State.reset.fb.flip 0 0)
     SpriteHits s 0x0#4 0x0#4 0x1#4 0 0 ∧ s.fb.pixel 0 0 = true) ∧
    ¬ ∃ px py, SpriteHits State.reset 0x0#4 0x0#4 0x0#4 px py ∧ State.reset.fb.pixel px py = true := by
  refine ⟨by decide, by decide, ⟨0, 0, by decide, by decide, by decide, by decide, by decide⟩, ?_,
    ⟨⟨0, 0, by decide, by decide, by decide, by decide, by decide⟩, by decide⟩, ?_⟩
  · rintro ⟨r, -, h, -⟩
    exact absurd h (Nat.not_lt_zero r)
  · rintro ⟨-, -, ⟨r, -, h, -⟩, -⟩
    exact absurd h (Nat.not_lt_zero r)

/-- KeySkips and KeyIndexFaults, where they meet. -/
theorem witness_KeySkips : ((r1 0x3#4 15#8).reg 0x3#4).toNat < 16 ∧ 16 ≤ ((r1 0x3#4 16#8).reg 0x3#4).toNat := by decide

/-- KeyWaitTakesTheLeastPressedKey: each clause, with the last key. -/
theorem witness_KeyWaitTakesTheLeastPressedKey :
    ((pressed 15).keys[15] = true ∧ ∀ (j : Nat) (hj : j < 15), (pressed 15).keys[j] = false) ∧
    ∀ (k : Nat) (hk : k < 16), State.reset.keys[k] = false := by decide

theorem witness_WaitingTickLeavesTheStateUnchanged : (holding 0xF30A).fault = none ∧ TickIsNext (holding 0xF30A) ∧
    (holding 0xF30A).pc.toNat + 1 < 4096 ∧ wordAtPc (holding 0xF30A) &&& 0xF0FF#16 = 0xF00A#16 ∧
    ∀ (k : Nat) (hk : k < 16), (holding 0xF30A).keys[k] = false := ⟨rfl, .inl rfl, by decide, by decide, by decide⟩

/-- StateChangesOnlyByTheNamedInstructions: for each clause, a change. -/
theorem witness_StateChangesOnlyByTheNamedInstructions :
    (∃ t, exec (.ldI 5#12) State.reset = .next t ∧ t.i ≠ State.reset.i) ∧
    (∃ t, exec (.call 5#12) State.reset = .next t ∧ t.sp ≠ State.reset.sp ∧ t.stack[0] ≠ State.reset.stack[0]) ∧
    (∃ t, exec (.drw 0x0#4 0x0#4 0x1#4) State.reset = .next t ∧ t.fb.pixel 0 0 ≠ State.reset.fb.pixel 0 0) ∧
    (∃ t, exec (.ldB 0x0#4) (r1 0x0#4 1#8) = .next t ∧ t.mem ≠ State.reset.mem) ∧
    (∃ t, exec (.ldDtVx 0x0#4) (r1 0x0#4 1#8) = .next t ∧ t.dt ≠ State.reset.dt) ∧
    (∃ t, exec (.ldStVx 0x0#4) (r1 0x0#4 1#8) = .next t ∧ t.st ≠ State.reset.st) ∧
    (∃ t, exec (.rnd 0x0#4 0#8) State.reset = .next t ∧ t.draws ≠ State.reset.draws) :=
  ⟨⟨_, rfl, by decide⟩, ⟨_, rfl, by decide, by decide⟩, ⟨_, rfl, by decide⟩, ⟨_, rfl, by decide⟩, ⟨_, rfl, by decide⟩,
    ⟨_, rfl, by decide⟩, ⟨_, rfl, by decide⟩⟩

/-- TimerTick, HostResetGivesTheNewState and the other host operations: a state that is not faulted, and one that is. -/
theorem witness_TimerTick : State.reset.fault = none ∧ faulted.fault = some ⟨0x200#16, .stackUnderflow⟩ := ⟨rfl, rfl⟩

theorem witness_TimersCountDownToZero : let s : State := { State.reset with dt := 1#8, pending := [.tickTimers, .tickTimers, .tick] }
    s.fault = none ∧ s.pending = List.replicate 2 .tickTimers ++ [.tick] := ⟨rfl, rfl⟩

/-- SetKeyWritesOneFlag: each clause, where they meet. -/
theorem witness_SetKeyWritesOneFlag : State.reset.fault = none ∧ 15 < 16 ∧ 16 ≤ 16 := ⟨rfl, by decide, by decide⟩

/-- LoadCopiesTheProgram: each clause, where they meet. -/
theorem witness_LoadCopiesTheProgram : State.reset.fault = none ∧ State.reset.mem.wf ∧ (List.replicate 3584 (1 : Byte)).length ≤ 3584 ∧
    3584 < (List.replicate 3585 (1 : Byte)).length := by
  simp only [List.length_replicate]
  decide

theorem witness_HostResetGivesTheNewState : (State.reset.load [1]).refuse.fault = none := rfl

/-- GetDisplayIsRowMajor, at the last pixel. -/
theorem witness_GetDisplayIsRowMajor : 63 < 64 ∧ 31 < 32 ∧ 63 + 64 * 31 < 2048 := by decide

/-- RefusalOnlyByABrokenPrecondition: a step that refuses, for each precondition, and one that does not. -/
theorem witness_RefusalOnlyByABrokenPrecondition :
    (∃ t, step { State.reset with pending := [.setKey 16 true] } = .next t ∧ t.refused = true) ∧
    (∃ t, step { State.reset with pending := [.load (List.replicate 3585 1)] } = .next t ∧ t.refused = true) ∧
    (∃ t, step State.reset = .next t ∧ t.refused = false) := by
  refine ⟨⟨_, rfl, rfl⟩, ⟨_, rfl, ?_⟩, _, rfl, rfl⟩
  simp only [State.load, List.length_replicate]
  rfl

/-- StepPerformsTheNextOperation: each clause, the first for an operation that writes. -/
theorem witness_StepPerformsTheNextOperation :
    { State.reset with pending := [.setKey 15 true, .tick] }.pending = [HostOp.setKey 15 true] ++ [.tick] ∧
    State.reset.pending = [] := ⟨rfl, rfl⟩

end Sys2Proof.Tests
end

section
/-! PROOFS. The state family (10_state.md): the ways an instruction may change the state, said once, and from it which instruction may
change which part; then the state after reset. -/

namespace Sys2Proof.Machine

open Sys2Proof.Claims

/-! ### The ways an instruction may change the state -/

/-- `Effect i s t`: `t` is `s` after one of the state updates that `i` may make, each with the instructions that make it. -/
inductive Effect (i : Instr) (s : State) : State → Prop
  /-- A fault, with nothing but PC and the record written (60_exceptions.md R105). -/
  | raise (cause : FaultCause) : Effect i s (s.raise cause)
  /-- PC alone; NOP and a skip not taken write it as it stands. -/
  | setPc (a : Word) : Effect i s (s.setPc a)
  | setReg (x : RegIdx) (b : Byte) (hx : MayWriteReg i x) : Effect i s (s.setReg x b)
  | setWithFlag (x : RegIdx) (b : Byte) (flag : Bool) (hx : MayWriteReg i x) (hF : MayWriteReg i vF) :
      Effect i s (s.setWithFlag x b flag)
  | setRegBlock (x : RegIdx) (a : Nat) (hx : ∀ r : RegIdx, r.toNat ≤ x.toNat → MayWriteReg i r) : Effect i s (s.setRegBlock x a)
  | setI (a : Word) (hi : (∃ nnn, i = .ldI nnn) ∨ ∃ x, i = .addI x ∨ i = .ldF x) : Effect i s (s.setI a)
  | pop (n : Fin 17) (a : Word) (hi : i = .ret) : Effect i s ({ s with sp := n }.setPc a)
  | push (n : Fin 17) (entries : Vector Word 16) (a : Word) (hi : ∃ nnn, i = .call nnn) :
      Effect i s ({ s with stack := entries, sp := n }.setPc a)
  | clear (hi : i = .cls) : Effect i s (s.setFb Framebuffer.clear)
  | draw (f : Framebuffer) (b : Byte) (hi : ∃ x y n, i = .drw x y n) (hF : MayWriteReg i vF) : Effect i s ((s.setFb f).setReg vF b)
  | setMem (m : Memory) (hi : ∃ x, i = .ldB x ∨ i = .storeRegs x) : Effect i s (s.setMem m)
  | setDt (b : Byte) (hi : ∃ x, i = .ldDtVx x) : Effect i s (s.setDt b)
  | setSt (b : Byte) (hi : ∃ x, i = .ldStVx x) : Effect i s (s.setSt b)
  | random (x : RegIdx) (b : Byte) (hi : ∃ x nn, i = .rnd x nn) (hx : MayWriteReg i x) : Effect i s (s.setReg x b).countDraw

/-- `r` is a next state that `i` may make of `s`. -/
def AnswersEffect (i : Instr) (s : State) (r : Result) : Prop := ∃ t, r = .next t ∧ Effect i s t

section Shared

variable {i : Instr} {s : State}

theorem answersEffect_next {t : State} (h : Effect i s t) : AnswersEffect i s (.next t) := ⟨t, rfl, h⟩

theorem answersEffect_skipIf (c : Bool) : AnswersEffect i s (.next (s.skipIf c)) := by
  cases c
  · exact answersEffect_next (.setPc s.pc)
  · exact answersEffect_next (.setPc (s.pc + 2))

/-- An access that is checked first raises its fault or has its effect. -/
theorem answersEffect_checked (found : Option FaultCause) {t : State} (h : Effect i s t) :
    AnswersEffect i s (checked s found t) := by
  obtain ⟨cause, -, e⟩ | ⟨-, e⟩ := checked_eq s found t <;> rw [e]
  · exact answersEffect_next (.raise cause)
  · exact answersEffect_next h

theorem answersEffect_ret : AnswersEffect .ret s (execRet s) := by
  unfold execRet
  cases hn : s.sp.val with
  | zero =>
    rw [s.pop_of_empty hn]
    exact answersEffect_next (.raise _)
  | succ k =>
    rw [s.pop_of_succ (by omega) hn]
    exact answersEffect_next (.pop _ _ rfl)

theorem answersEffect_call (nnn : Addr12) : AnswersEffect (.call nnn) s (execCall nnn s) := by
  unfold execCall
  by_cases h : s.sp.val < 16
  · rw [s.push_of_lt _ h]
    exact answersEffect_next (.push _ _ _ ⟨nnn, rfl⟩)
  · rw [s.push_of_full _ (by omega)]
    exact answersEffect_next (.raise _)

theorem answersEffect_keySkips (x : RegIdx) : AnswersEffect i s (execSkp x s) ∧ AnswersEffect i s (execSknp x s) := by
  unfold execSkp execSknp
  cases s.keyOf x with
  | ok pressed => exact ⟨answersEffect_skipIf _, answersEffect_skipIf _⟩
  | error cause => exact ⟨answersEffect_next (.raise cause), answersEffect_next (.raise cause)⟩

theorem answersEffect_ldVxK (x : RegIdx) : AnswersEffect (.ldVxK x) s (execLdVxK x s) := by
  unfold execLdVxK
  cases s.leastKey with
  | some k => exact answersEffect_next (.setReg x _ rfl)
  | none => exact answersEffect_next (.setPc _)

end Shared

/-- Every instruction answers a next state, from every state, and changes the state only in its own way. -/
theorem exec_answersEffect (i : Instr) (s : State) : AnswersEffect i s (exec i s) := by
  cases i with
  | nop => exact answersEffect_next (.setPc s.pc)
  | cls => exact answersEffect_next (.clear rfl)
  | ret => exact answersEffect_ret
  | call nnn => exact answersEffect_call nnn
  | jp _ | jpV0 _ => exact answersEffect_next (.setPc _)
  | seByte _ _ | sneByte _ _ | seReg _ _ | sneReg _ _ => exact answersEffect_skipIf _
  | ldByte x _ | addByte x _ | ldReg x _ | orReg x _ | andReg x _ | xorReg x _ | ldVxDt x =>
    exact answersEffect_next (.setReg x _ rfl)
  | addReg x _ | subReg x _ | shr x _ | subnReg x _ | shl x _ =>
    exact answersEffect_next (.setWithFlag x _ _ (.inl rfl) (.inr rfl))
  | ldI nnn => exact answersEffect_next (.setI _ (.inl ⟨nnn, rfl⟩))
  | addI x => exact answersEffect_next (.setI _ (.inr ⟨x, .inl rfl⟩))
  | ldF x => exact answersEffect_next (.setI _ (.inr ⟨x, .inr rfl⟩))
  | rnd x nn => exact answersEffect_next (.random x _ ⟨x, nn, rfl⟩ rfl)
  | drw x y n => exact answersEffect_checked _ (.draw _ _ ⟨x, y, n, rfl⟩ rfl)
  | skp x => exact (answersEffect_keySkips x).1
  | sknp x => exact (answersEffect_keySkips x).2
  | ldVxK x => exact answersEffect_ldVxK x
  | ldDtVx x => exact answersEffect_next (.setDt _ ⟨x, rfl⟩)
  | ldStVx x => exact answersEffect_next (.setSt _ ⟨x, rfl⟩)
  | ldB x => exact answersEffect_checked _ (.setMem _ ⟨x, .inl rfl⟩)
  | storeRegs x => exact answersEffect_checked _ (.setMem _ ⟨x, .inr rfl⟩)
  | loadRegs x => exact answersEffect_checked _ (.setRegBlock x _ fun _ hr => hr)

theorem effect_of_exec {i : Instr} {s t : State} (h : exec i s = .next t) : Effect i s t := by
  obtain ⟨u, hu, he⟩ := exec_answersEffect i s
  obtain rfl : u = t := Host.Outcome.next.inj (hu.symm.trans h)
  exact he

/-! ### Registers that an update changed -/

theorem State.eq_of_reg_setReg_ne {s : State} {x r : RegIdx} {b : Byte} (h : (s.setReg x b).reg r ≠ s.reg r) : r = x := by
  by_contra hr
  exact h (s.reg_setReg_of_ne b hr)

theorem State.eq_of_reg_setWithFlag_ne {s : State} {x r : RegIdx} {b : Byte} {flag : Bool}
    (h : (s.setWithFlag x b flag).reg r ≠ s.reg r) : r = x ∨ r = vF := by
  by_contra hr
  obtain ⟨hx, hF⟩ := not_or.mp hr
  exact h (by rw [s.reg_setWithFlag, if_neg hF, if_neg hx])

theorem State.le_of_reg_setRegBlock_ne {s : State} {x r : RegIdx} {a : Nat} (h : (s.setRegBlock x a).reg r ≠ s.reg r) :
    r.toNat ≤ x.toNat := by
  by_contra hr
  exact h (by rw [s.reg_setRegBlock, if_neg hr])

/-! ### The state after reset -/

@[simp] theorem State.reset_reg (r : RegIdx) : State.reset.reg r = 0 := by
  simp [State.reg, State.reset]

@[simp] theorem State.reset_stack (k : Nat) (h : k < 16) : State.reset.stack[k] = 0 := by
  simp [State.reset]

@[simp] theorem State.reset_keys (k : Nat) (h : k < 16) : State.reset.keys[k] = false := by
  simp [State.reset]

@[simp] theorem State.reset_pixel (px py : Nat) : State.reset.fb.pixel px py = false := Framebuffer.pixel_clear px py

/-- Memory lists nothing after reset. -/
theorem State.reset_mem_read (a : Nat) : State.reset.mem.read a = Memory.unlisted a := rfl

/-- FONTSET holds the rows of R31's table one after the other. -/
theorem Memory.unlisted_glyph : ∀ d < 16, ∀ k < 5, Memory.unlisted (5 * d + k) = glyphByte d k := by decide

theorem Memory.unlisted_above_font {a : Nat} (h : 80 ≤ a) : Memory.unlisted a = 0 :=
  List.getD_eq_default _ _ h

end Sys2Proof.Machine

namespace Sys2Proof.Proofs

open Sys2Proof Sys2Proof.Machine Sys2Proof.Claims

/-- Settles O31, from the ways an instruction may change the state: those that write registers name each one they write. -/
theorem registersChangeOnlyAsNamed : Obligations.RegistersChangeOnlyAsNamed := by
  intro i s t r h hr
  cases effect_of_exec h with
  | setReg x b hx => exact State.eq_of_reg_setReg_ne hr ▸ hx
  | random x b _ hx => exact State.eq_of_reg_setReg_ne hr ▸ hx
  | draw f b _ hF => exact State.eq_of_reg_setReg_ne (s := s.setFb f) hr ▸ hF
  | setWithFlag x b flag hx hF =>
    obtain rfl | rfl := State.eq_of_reg_setWithFlag_ne hr
    · exact hx
    · exact hF
  | setRegBlock x a hx => exact hx r (State.le_of_reg_setRegBlock_ne hr)
  | raise | setPc | setI | pop | push | clear | setMem | setDt | setSt => exact absurd rfl hr

/-- Settles O47, from the ways an instruction may change the state: each field differs after the updates that write it alone, and
these name their instructions. -/
theorem stateChangesOnlyByTheNamedInstructions : Obligations.StateChangesOnlyByTheNamedInstructions := by
  intro i s t h
  cases effect_of_exec h with
  | raise | setPc | setReg | setWithFlag | setRegBlock => simp
  | setI _ hi | pop _ _ hi | push _ _ _ hi | clear hi | draw _ _ hi _ | setMem _ hi | setDt _ hi | setSt _ hi | random _ _ hi _ =>
    simp [hi]

/-- Settles O1, field by field; the memory lists nothing, so it reads as FONTSET and zeros. -/
theorem resetStateHoldsTheStatedValues : Obligations.ResetStateHoldsTheStatedValues :=
  ⟨State.reset_reg, rfl, rfl, rfl, State.reset_stack, rfl, rfl, State.reset_keys, fun px py _ _ => State.reset_pixel px py,
    fun d k hd hk => Memory.unlisted_glyph d hd k hk, fun _ ha => Memory.unlisted_above_font ha, rfl, rfl⟩

/-- Settles O9: the empty list is canonical, PC is 0x200 and every stack entry 0. -/
theorem resetMeetsTheInvariant : Obligations.ResetMeetsTheInvariant where
  mem_wf := Memory.wf_nil
  pc_le := by decide
  stack_le k h := by simp

end Sys2Proof.Proofs
end

section
/-! PROOFS. The memory family (20_memory.md): canonical memories are known by what they read, and an access that reaches 4096 or more
faults with the lowest such address, in the fetch and through I. -/

namespace Sys2Proof.Machine

open Sys2Proof.Claims

/-! ### Canonical memories -/

/-- Their cells are the addresses that do not read as unlisted, each listed once, in rising order. -/
theorem Memory.eq_of_read_eq {m n : Memory} (hm : m.wf) (hn : n.wf) (h : ∀ a, m.read a = n.read a) : m = n := by
  have hcells : ∀ c, c ∈ m ↔ c ∈ n := fun c => by rw [mem_iff hm, mem_iff hn, h]
  exact List.Pairwise.eq_of_mem_iff (r := InvImage (· < ·) Prod.fst) hm.1 hn.1 hcells

variable (s : State)

/-! ### Accesses out of range -/

/-- What the claims call the faulted state is what the machine leaves on raising a fault. -/
theorem State.raise_eq_faultedAt (cause : FaultCause) : s.raise cause = faultedAt s cause := rfl

/-- A checked access through I that does not fit raises the range fault, with no part of its effect. -/
theorem checked_base_of_gt {n : Nat} (k : AccessKind) (effect : State) (h0 : n ≠ 0) (h : 4096 < s.i.toNat + n) :
    checked s (rangeFault s.base n k) effect = .next (faultedAt s (.memoryOutOfRange (max s.i.toNat 4096) k)) := by
  rw [State.base, rangeFault_eq_some h0 h, ← s.raise_eq_faultedAt]
  rfl

/-- A fetch that faults ends the cycle, with the fault at the PC. -/
theorem State.cycle_of_fetch_error {cause : FaultCause} (h : s.fetch = .error cause) :
    s.cycle = .next (s.raiseAt s.pc cause) := by
  rw [State.cycle, h]

end Sys2Proof.Machine

namespace Sys2Proof.Proofs

open Sys2Proof Sys2Proof.Machine Sys2Proof.Claims

/-- Settles O38: both lists hold the same cells in the same order. -/
theorem canonicalMemoriesAreEqualWhenTheyReadEqual : Obligations.CanonicalMemoriesAreEqualWhenTheyReadEqual :=
  fun _ _ => Memory.eq_of_read_eq

/-- Settles O3: the step is a tick, its cycle fetches first, and the fetch finds the fault. -/
theorem fetchOutOfRangeFaults : Obligations.FetchOutOfRangeFaults := by
  intro s hs htick hpc
  let u : State := { s with pending := s.pending.tail }
  have hfetch : u.fetch = .error (.memoryOutOfRange (max s.pc.toNat 4096) .fetch) := u.fetch_of_ge (Nat.succ_le_succ hpc)
  calc step s = tick u := step_of_tick s htick
    _ = u.cycle := u.ifRunning_of_none hs
    _ = .next (u.raiseAt u.pc _) := u.cycle_of_fetch_error hfetch

/-- Settles O37: the four instructions check their range before any effect; DXYN checks N bytes, FX33 three, and FX55 and FX65 X + 1. -/
theorem dataAccessOutOfRangeFaults : Obligations.DataAccessOutOfRangeFaults := by
  intro x y n s
  refine ⟨fun h => ?_, fun h => ⟨?_, ?_⟩, fun ⟨hn, h⟩ => ?_⟩
  · exact checked_base_of_gt s .write _ (by decide) (by omega)
  · exact checked_base_of_gt s .write _ (Nat.succ_ne_zero _) (Nat.lt_succ_of_le h)
  · exact checked_base_of_gt s .read _ (Nat.succ_ne_zero _) (Nat.lt_succ_of_le h)
  · exact checked_base_of_gt s .read _ (by omega) (by omega)

end Sys2Proof.Proofs
end

section
/-! PROOFS. The encoding family (30_encoding.md): what decoding a word can answer, said once, and that the encoder is its inverse; from
these the opcode map's rows, which are disjoint and decode, and the words that are refused. -/

namespace Sys2Proof

open Sys2Proof.Claims

/-! ### A word put together again from its digits -/

section Fields

variable {w : Word} {d n : Nibble} {nn : Byte}

theorem ofNNN_of_digit1 (h1 : digit1 w = d) : ofNNN d (low12 w) = w := h1 ▸ ofNNN_fields w

theorem ofXNN_of_digit1 (h1 : digit1 w = d) : ofXNN d (digit2 w) (lowByte w) = w := h1 ▸ ofXNN_fields w

theorem ofDigits_of_digit1 (h1 : digit1 w = d) : ofDigits d (digit2 w) (digit3 w) (digit4 w) = w := h1 ▸ ofDigits_digits w

theorem ofDigits_of_digits (h1 : digit1 w = d) (h4 : digit4 w = n) : ofDigits d (digit2 w) (digit3 w) n = w :=
  h4 ▸ ofDigits_of_digit1 h1

theorem ofXNN_of_lowByte (h1 : digit1 w = d) (hb : lowByte w = nn) : ofXNN d (digit2 w) nn = w := hb ▸ ofXNN_of_digit1 h1

theorem lowByte_eq_of_digits (h3 : (digit3 w).toNat = nn.toNat / 16) (h4 : (digit4 w).toNat = nn.toNat % 16) : lowByte w = nn := by
  apply BitVec.eq_of_toNat_eq
  rw [toNat_lowByte_digits, h3, h4]; omega

/-- A fixed first digit and low byte (masks F0FF), the low byte as one number. -/
theorem fields_of_and_F0FF (h : w &&& 0xF0FF#16 = ofXNN d 0 nn) : digit1 w = d ∧ lowByte w = nn := by
  obtain ⟨h1, -, h3, h4⟩ := (and_eq_iff_digits ..).mp h
  rw [show digit1 0xF0FF#16 = 0xF#4 by decide, nibble_and_F, digit1_ofXNN] at h1
  rw [show digit3 0xF0FF#16 = 0xF#4 by decide, nibble_and_F] at h3
  rw [show digit4 0xF0FF#16 = 0xF#4 by decide, nibble_and_F] at h4
  exact ⟨h1, lowByte_eq_of_digits (h3 ▸ digit3_ofXNN ..) (h4 ▸ digit4_ofXNN ..)⟩

end Fields

/-! ### What decoding a word can answer -/

/-- The table of 30_encoding.md R53, in the word's fields: the words that match no pattern, by their first digit. -/
def Unimplemented (w : Word) : Prop :=
  ((digit1 w).toNat = 0x0 ∧ w.toNat ∉ [0x0000, 0x00E0, 0x00EE]) ∨
  ((digit1 w).toNat = 0x5 ∧ (digit4 w).toNat ≠ 0) ∨
  ((digit1 w).toNat = 0x8 ∧ (digit4 w).toNat ∈ [0x8, 0x9, 0xA, 0xB, 0xC, 0xD, 0xF]) ∨
  ((digit1 w).toNat = 0x9 ∧ (digit4 w).toNat ≠ 0) ∨
  ((digit1 w).toNat = 0xE ∧ (lowByte w).toNat ∉ [0x9E, 0xA1]) ∨
  ((digit1 w).toNat = 0xF ∧ (lowByte w).toNat ∉ [0x07, 0x0A, 0x15, 0x18, 0x1E, 0x29, 0x33, 0x55, 0x65])

/-- What decoding `w` can answer: an instruction that encodes to `w`, or the refusal of a word of R53's table. -/
inductive Decoding (w : Word) : Except DecodeError Instr → Prop
  | ok (i : Instr) (h : encode i = w) : Decoding w (.ok i)
  | refused (h : Unimplemented w) : Decoding w (.error (.unimplementedOpcode w))

section Groups

variable {w : Word}

theorem decodeGroup0_answers (h1 : (digit1 w).toNat = 0x0) : Decoding w (decodeGroup0 w) := by
  unfold decodeGroup0
  split_ifs with hNop hCls hRet
  · exact .ok .nop hNop.symm
  · exact .ok .cls hCls.symm
  · exact .ok .ret hRet.symm
  · refine .refused (.inl ⟨h1, ?_⟩)
    rw [← BitVec.toNat_inj] at hNop hCls hRet
    simpa using And.intro hNop ⟨hCls, hRet⟩

theorem decodeGroup5_answers (h1 : (digit1 w).toNat = 0x5) : Decoding w (decodeGroup5 w) := by
  unfold decodeGroup5
  split_ifs with h4
  · exact .ok _ (ofDigits_of_digits (BitVec.eq_of_toNat_eq h1) h4)
  · exact .refused (by simpa [Unimplemented, h1, ← BitVec.toNat_inj] using h4)

theorem decodeGroup8_answers (h1 : (digit1 w).toNat = 0x8) : Decoding w (decodeGroup8 w) := by
  unfold decodeGroup8
  split
  case h_10 =>
    refine .refused (.inr (.inr (.inl ⟨h1, ?_⟩)))
    have := (digit4 w).isLt
    simp only [imp_false, List.mem_cons, List.not_mem_nil] at *
    omega
  all_goals
    next h4 => exact .ok _ (ofDigits_of_digits (BitVec.eq_of_toNat_eq h1) (BitVec.eq_of_toNat_eq h4))

theorem decodeGroup9_answers (h1 : (digit1 w).toNat = 0x9) : Decoding w (decodeGroup9 w) := by
  unfold decodeGroup9
  split_ifs with h4
  · exact .ok _ (ofDigits_of_digits (BitVec.eq_of_toNat_eq h1) h4)
  · exact .refused (by simpa [Unimplemented, h1, ← BitVec.toNat_inj] using h4)

theorem decodeGroupE_answers (h1 : (digit1 w).toNat = 0xE) : Decoding w (decodeGroupE w) := by
  unfold decodeGroupE
  split
  case h_3 => exact .refused (by simp_all [Unimplemented])
  all_goals
    next hb => exact .ok _ (ofXNN_of_lowByte (BitVec.eq_of_toNat_eq h1) (BitVec.eq_of_toNat_eq hb))

theorem decodeGroupF_answers (h1 : (digit1 w).toNat = 0xF) : Decoding w (decodeGroupF w) := by
  unfold decodeGroupF
  split
  case h_10 => exact .refused (by simp_all [Unimplemented])
  all_goals
    next hb => exact .ok _ (ofXNN_of_lowByte (BitVec.eq_of_toNat_eq h1) (BitVec.eq_of_toNat_eq hb))

/-- One case for each first digit; a digit has no seventeenth value, so the last arm of the dispatch is never taken. -/
theorem decode_answers (w : Word) : Decoding w (decode w) := by
  unfold decode
  split <;> rename_i h1
  case h_1 => exact decodeGroup0_answers h1
  case h_6 => exact decodeGroup5_answers h1
  case h_9 => exact decodeGroup8_answers h1
  case h_10 => exact decodeGroup9_answers h1
  case h_15 => exact decodeGroupE_answers h1
  case h_16 => exact decodeGroupF_answers h1
  case h_2 | h_3 | h_11 | h_12 => exact .ok _ (ofNNN_of_digit1 (BitVec.eq_of_toNat_eq h1))
  case h_4 | h_5 | h_7 | h_8 | h_13 => exact .ok _ (ofXNN_of_digit1 (BitVec.eq_of_toNat_eq h1))
  case h_14 => exact .ok _ (ofDigits_of_digit1 (BitVec.eq_of_toNat_eq h1))
  case h_17 =>
    have := (digit1 w).isLt
    simp only [imp_false] at *
    omega

end Groups

/-! ### The encoder and the decoder are inverse -/

theorem decode_encode (i : Instr) : decode (encode i) = .ok i := by
  cases i with
  | nop | cls | ret => rfl
  | jp _ | call _ | ldI _ | jpV0 _ | seByte _ _ | sneByte _ _ | ldByte _ _ | addByte _ _ | rnd _ _ | drw _ _ _ =>
    simp [encode, decode]
  | seReg _ _ => simp [encode, decode, decodeGroup5]
  | sneReg _ _ => simp [encode, decode, decodeGroup9]
  | ldReg _ _ | orReg _ _ | andReg _ _ | xorReg _ _ | addReg _ _ | subReg _ _ | shr _ _ | subnReg _ _ | shl _ _ =>
    simp [encode, decode, decodeGroup8]
  | skp _ | sknp _ => simp [encode, decode, decodeGroupE]
  | ldVxDt _ | ldVxK _ | ldDtVx _ | ldStVx _ | addI _ | ldF _ | ldB _ | storeRegs _ | loadRegs _ =>
    simp [encode, decode, decodeGroupF]

theorem decode_eq_ok_iff {w : Word} {i : Instr} : decode w = .ok i ↔ encode i = w := by
  constructor
  · intro hd
    have h := decode_answers w
    rw [hd] at h
    cases h with
    | ok _ h => exact h
  · rintro rfl
    exact decode_encode i

/-- The encoder stores a word's two bytes in the order the decoder reads them (20_memory.md R40). -/
theorem decodeBytes_wordBytes (w : Word) (rest : List Byte) :
    decodeBytes (wordBytes w ++ rest) = (decode w).map (·, rest) := by
  have hw : bigEndian (w.extractLsb' 8 8) (w.extractLsb' 0 8) = w := by
    apply BitVec.eq_of_toNat_eq
    simp only [bigEndian, BitVec.toNat_ofNat, BitVec.extractLsb'_toNat, Nat.shiftRight_eq_div_pow]; omega
  simp only [wordBytes, List.cons_append, List.nil_append, decodeBytes, hw]
  cases decode w <;> rfl

/-! ### The words that are refused -/

theorem of_decode_eq_error {w : Word} {e : DecodeError} (hd : decode w = .error e) : e = .unimplementedOpcode w ∧ Unimplemented w := by
  have h := decode_answers w
  rw [hd] at h
  cases h with
  | refused hu => exact ⟨rfl, hu⟩

/-- No instruction encodes to a word of R53's table. -/
theorem not_unimplemented_encode (i : Instr) : ¬ Unimplemented (encode i) := by
  cases i with
  | nop | cls | ret => unfold Unimplemented; decide
  | _ => simp [Unimplemented, encode]

theorem decode_eq_unimplemented_iff {w : Word} : decode w = .error (.unimplementedOpcode w) ↔ Unimplemented w := by
  constructor
  · intro hd
    exact (of_decode_eq_error hd).2
  · intro hu
    cases hd : decode w with
    | ok i => exact absurd hu (decode_eq_ok_iff.mp hd ▸ not_unimplemented_encode i)
    | error e => rw [(of_decode_eq_error hd).1]

/-! ### The rows of the opcode map -/

/-- The instruction of the same row with the operands that stand in the word's fields (30_encoding.md R49). -/
def Instr.withFields : Instr → Word → Instr
  | .nop, _ => .nop
  | .cls, _ => .cls
  | .ret, _ => .ret
  | .jp _, w => .jp (fieldNNN w)
  | .call _, w => .call (fieldNNN w)
  | .seByte _ _, w => .seByte (fieldX w) (fieldNN w)
  | .sneByte _ _, w => .sneByte (fieldX w) (fieldNN w)
  | .seReg _ _, w => .seReg (fieldX w) (fieldY w)
  | .ldByte _ _, w => .ldByte (fieldX w) (fieldNN w)
  | .addByte _ _, w => .addByte (fieldX w) (fieldNN w)
  | .ldReg _ _, w => .ldReg (fieldX w) (fieldY w)
  | .orReg _ _, w => .orReg (fieldX w) (fieldY w)
  | .andReg _ _, w => .andReg (fieldX w) (fieldY w)
  | .xorReg _ _, w => .xorReg (fieldX w) (fieldY w)
  | .addReg _ _, w => .addReg (fieldX w) (fieldY w)
  | .subReg _ _, w => .subReg (fieldX w) (fieldY w)
  | .shr _ _, w => .shr (fieldX w) (fieldY w)
  | .subnReg _ _, w => .subnReg (fieldX w) (fieldY w)
  | .shl _ _, w => .shl (fieldX w) (fieldY w)
  | .sneReg _ _, w => .sneReg (fieldX w) (fieldY w)
  | .ldI _, w => .ldI (fieldNNN w)
  | .jpV0 _, w => .jpV0 (fieldNNN w)
  | .rnd _ _, w => .rnd (fieldX w) (fieldNN w)
  | .drw _ _ _, w => .drw (fieldX w) (fieldY w) (fieldN w)
  | .skp _, w => .skp (fieldX w)
  | .sknp _, w => .sknp (fieldX w)
  | .ldVxDt _, w => .ldVxDt (fieldX w)
  | .ldVxK _, w => .ldVxK (fieldX w)
  | .ldDtVx _, w => .ldDtVx (fieldX w)
  | .ldStVx _, w => .ldStVx (fieldX w)
  | .addI _, w => .addI (fieldX w)
  | .ldF _, w => .ldF (fieldX w)
  | .ldB _, w => .ldB (fieldX w)
  | .storeRegs _, w => .storeRegs (fieldX w)
  | .loadRegs _, w => .loadRegs (fieldX w)

section Rows

variable (w : Word)

theorem fieldX_eq_digit2 : fieldX w = digit2 w := BitVec.eq_of_toNat_eq (by simp [fieldX, toNat_digit2])

theorem fieldY_eq_digit3 : fieldY w = digit3 w := BitVec.eq_of_toNat_eq (by simp [fieldY, toNat_digit3])

theorem fieldN_eq_digit4 : fieldN w = digit4 w := BitVec.eq_of_toNat_eq (by simp [fieldN, toNat_digit4])

theorem fieldNN_eq_lowByte : fieldNN w = lowByte w := BitVec.eq_of_toNat_eq (by simp [fieldNN, toNat_lowByte])

theorem fieldNNN_eq_low12 : fieldNNN w = low12 w := BitVec.eq_of_toNat_eq (by simp [fieldNNN, toNat_low12])

theorem row_withFields (i : Instr) : (i.withFields w).row = i.row := by cases i <;> rfl

section Met

variable {w} {d n : Nibble} {nn : Byte}

theorem ofNNN_of_and_F000 (h : w &&& 0xF000#16 = ofDigits d 0 0 0) : ofNNN d (fieldNNN w) = w := by
  rw [fieldNNN_eq_low12, ofNNN_of_digit1 ((and_F000 w d).mp h)]

theorem ofXNN_of_and_F000 (h : w &&& 0xF000#16 = ofDigits d 0 0 0) : ofXNN d (fieldX w) (fieldNN w) = w := by
  rw [fieldX_eq_digit2, fieldNN_eq_lowByte, ofXNN_of_digit1 ((and_F000 w d).mp h)]

theorem ofDigits_of_and_F000 (h : w &&& 0xF000#16 = ofDigits d 0 0 0) : ofDigits d (fieldX w) (fieldY w) (fieldN w) = w := by
  rw [fieldX_eq_digit2, fieldY_eq_digit3, fieldN_eq_digit4, ofDigits_of_digit1 ((and_F000 w d).mp h)]

theorem ofDigits_of_and_F00F (h : w &&& 0xF00F#16 = ofDigits d 0 0 n) : ofDigits d (fieldX w) (fieldY w) n = w := by
  obtain ⟨h1, h4⟩ := (and_F00F w d n).mp h
  rw [fieldX_eq_digit2, fieldY_eq_digit3, ofDigits_of_digits h1 h4]

theorem ofXNN_of_and_F0FF (h : w &&& 0xF0FF#16 = ofXNN d 0 nn) : ofXNN d (fieldX w) nn = w := by
  obtain ⟨h1, hb⟩ := fields_of_and_F0FF h
  rw [fieldX_eq_digit2, ofXNN_of_lowByte h1 hb]

end Met

variable {w}

/-- A word that meets an instruction's row is that row's instruction with the word's fields, encoded. -/
theorem encode_withFields {i : Instr} (h : w &&& i.row.mask = i.row.value) : encode (i.withFields w) = w := by
  cases i with
  | nop | cls | ret => exact h.symm.trans (BitVec.and_allOnes (x := w))
  | jp _ | call _ | ldI _ | jpV0 _ => exact ofNNN_of_and_F000 h
  | seByte _ _ | sneByte _ _ | ldByte _ _ | addByte _ _ | rnd _ _ => exact ofXNN_of_and_F000 h
  | drw _ _ _ => exact ofDigits_of_and_F000 h
  | seReg _ _ | sneReg _ _ | ldReg _ _ | orReg _ _ | andReg _ _ | xorReg _ _ | addReg _ _ | subReg _ _ | shr _ _ | subnReg _ _
  | shl _ _ => exact ofDigits_of_and_F00F h
  | skp _ | sknp _ | ldVxDt _ | ldVxK _ | ldDtVx _ | ldStVx _ | addI _ | ldF _ | ldB _ | storeRegs _ | loadRegs _ =>
    exact ofXNN_of_and_F0FF h

/-- Every word of an instruction's row decodes to that instruction with the word's fields. -/
theorem decodesTo_withFields (i : Instr) : DecodesTo i.row.mask i.row.value i.withFields :=
  fun _ h => decode_eq_ok_iff.mpr (encode_withFields h)

/-- The per-instruction laws as one: the encoding of an instruction meets its row. -/
theorem encode_matchesRow : ∀ i : Instr, Laws.EncodeMatchesRow.Statement i
  | .nop => Laws.EncodeMatchesRow.nop
  | .cls => Laws.EncodeMatchesRow.cls
  | .ret => Laws.EncodeMatchesRow.ret
  | .jp nnn => Laws.EncodeMatchesRow.jp nnn
  | .call nnn => Laws.EncodeMatchesRow.call nnn
  | .seByte x nn => Laws.EncodeMatchesRow.seByte x nn
  | .sneByte x nn => Laws.EncodeMatchesRow.sneByte x nn
  | .seReg x y => Laws.EncodeMatchesRow.seReg x y
  | .ldByte x nn => Laws.EncodeMatchesRow.ldByte x nn
  | .addByte x nn => Laws.EncodeMatchesRow.addByte x nn
  | .ldReg x y => Laws.EncodeMatchesRow.ldReg x y
  | .orReg x y => Laws.EncodeMatchesRow.orReg x y
  | .andReg x y => Laws.EncodeMatchesRow.andReg x y
  | .xorReg x y => Laws.EncodeMatchesRow.xorReg x y
  | .addReg x y => Laws.EncodeMatchesRow.addReg x y
  | .subReg x y => Laws.EncodeMatchesRow.subReg x y
  | .shr x y => Laws.EncodeMatchesRow.shr x y
  | .subnReg x y => Laws.EncodeMatchesRow.subnReg x y
  | .shl x y => Laws.EncodeMatchesRow.shl x y
  | .sneReg x y => Laws.EncodeMatchesRow.sneReg x y
  | .ldI nnn => Laws.EncodeMatchesRow.ldI nnn
  | .jpV0 nnn => Laws.EncodeMatchesRow.jpV0 nnn
  | .rnd x nn => Laws.EncodeMatchesRow.rnd x nn
  | .drw x y n => Laws.EncodeMatchesRow.drw x y n
  | .skp x => Laws.EncodeMatchesRow.skp x
  | .sknp x => Laws.EncodeMatchesRow.sknp x
  | .ldVxDt x => Laws.EncodeMatchesRow.ldVxDt x
  | .ldVxK x => Laws.EncodeMatchesRow.ldVxK x
  | .ldDtVx x => Laws.EncodeMatchesRow.ldDtVx x
  | .ldStVx x => Laws.EncodeMatchesRow.ldStVx x
  | .addI x => Laws.EncodeMatchesRow.addI x
  | .ldF x => Laws.EncodeMatchesRow.ldF x
  | .ldB x => Laws.EncodeMatchesRow.ldB x
  | .storeRegs x => Laws.EncodeMatchesRow.storeRegs x
  | .loadRegs x => Laws.EncodeMatchesRow.loadRegs x

theorem row_of_decode {i : Instr} (h : decode w = .ok i) : i.row ∈ opRows ∧ w &&& i.row.mask = i.row.value := by
  obtain ⟨hrow, hcovers⟩ := encode_matchesRow i
  exact ⟨hrow, decode_eq_ok_iff.mp h ▸ beq_iff_eq.mp hcovers⟩

/-- Each row of the map is an instruction's: its value, which has every field 0, decodes to one. -/
theorem decode_value_row : ∀ p ∈ opRows, (decode p.value).map Instr.row = .ok p := by decide

theorem exists_row_eq {p : OpRow} (hp : p ∈ opRows) : ∃ i : Instr, i.row = p := by
  have h := decode_value_row p hp
  cases hd : decode p.value with
  | ok i => exact ⟨i, by simpa [hd, Except.map] using h⟩
  | error e => simp [hd, Except.map] at h

theorem decode_of_row {p : OpRow} (hp : p ∈ opRows) (h : w &&& p.mask = p.value) : ∃ i, decode w = .ok i ∧ i.row = p := by
  obtain ⟨i, rfl⟩ := exists_row_eq hp
  exact ⟨i.withFields w, decodesTo_withFields i w h, row_withFields w i⟩

/-- A word that meets no row is refused with the word itself. -/
theorem decode_of_no_row (h : ¬ ∃ p ∈ opRows, w &&& p.mask = p.value) : decode w = .error (.unimplementedOpcode w) := by
  cases hd : decode w with
  | ok i =>
    obtain ⟨hrow, hmeets⟩ := row_of_decode hd
    exact absurd ⟨i.row, hrow, hmeets⟩ h
  | error e => rw [(of_decode_eq_error hd).1]

end Rows

end Sys2Proof

namespace Sys2Proof.Machine

variable (s : State)

/-- A word that does not decode ends the cycle, with the fault at the PC: the fetch's advance is undone. -/
theorem State.cycle_of_decode_error {w : Word} {e : DecodeError} (hf : s.fetch = .ok w) (hd : decode w = .error e) :
    s.cycle = .next (s.raiseAt s.pc (.unimplementedOpcode w)) := by
  simp only [State.cycle, hf, hd, State.raise, State.advance_pc, add_two_sub_two]
  rfl

end Sys2Proof.Machine

namespace Sys2Proof.Proofs

open Sys2Proof Sys2Proof.Machine Sys2Proof.Claims

/-- Settles O11: decoding inverts encoding, and the two bytes of the word are put together as they were taken apart. -/
theorem decodeEncodeRoundTrip : Obligations.DecodeEncodeRoundTrip := by
  intro i rest
  refine ⟨decode_encode i, ?_⟩
  rw [decodeBytes_wordBytes, decode_encode]
  rfl

/-- Settles O12, from what decoding can answer. -/
theorem encodeDecodeRoundTrip : Obligations.EncodeDecodeRoundTrip := fun _ _ => decode_eq_ok_iff.mp

/-- Settles O13: an encoded instruction meets its row, and a word that meets a row is the encoding of an instruction of that row. -/
theorem decodeAcceptsExactlyTheOpcodeMap : Obligations.DecodeAcceptsExactlyTheOpcodeMap := by
  intro w
  refine ⟨fun _ => row_of_decode, fun ⟨p, hp, hmeets⟩ => ?_, decode_of_no_row⟩
  obtain ⟨i, hd, -⟩ := decode_of_row hp hmeets
  exact ⟨i, hd⟩

/-- Settles O14: the word decodes to an instruction of each of the two rows, and it decodes to one instruction only. -/
theorem opcodePatternsAreDisjoint : Obligations.OpcodePatternsAreDisjoint := by
  refine ⟨rfl, fun w p q hp hq hwp hwq => ?_⟩
  obtain ⟨i, hi, rfl⟩ := decode_of_row hp hwp
  obtain ⟨j, hj, rfl⟩ := decode_of_row hq hwq
  obtain rfl : i = j := Except.ok.inj (hi.symm.trans hj)
  rfl

/-- Settles O15: a refused word is in the table, and no instruction encodes to a word of the table. -/
theorem unimplementedWordsByFirstDigit : Obligations.UnimplementedWordsByFirstDigit := by
  intro w
  rw [decode_eq_unimplemented_iff, Unimplemented, toNat_digit1, toNat_digit4, toNat_lowByte]

/-- Settles O4: the step is a tick, its cycle fetches the word at the PC, and that word does not decode. -/
theorem unimplementedWordFaults : Obligations.UnimplementedWordFaults := by
  intro s hs htick hpc hrows
  let u : State := { s with pending := s.pending.tail }
  have hfetch : u.fetch = .ok (wordAtPc s) := u.fetch_of_lt hpc
  have hdecode : decode (wordAtPc s) = .error (.unimplementedOpcode (wordAtPc s)) :=
    decode_of_no_row fun ⟨p, hp, hmeets⟩ => hrows p hp hmeets
  calc step s = tick u := step_of_tick s htick
    _ = u.cycle := u.ifRunning_of_none hs
    _ = .next (u.raiseAt u.pc _) := u.cycle_of_decode_error hfetch hdecode

/-- Settles O16: each word's digits are its fields; 5121 has a last digit other than 0. -/
theorem wordsOfTheTestVectorsDecode : Obligations.WordsOfTheTestVectorsDecode := by
  unfold Obligations.WordsOfTheTestVectorsDecode
  decide

end Sys2Proof.Proofs
end

section
/-! PROOFS. The cycle family (40_cycle.md): a step is one host operation, and a tick one cycle; the ways an instruction may leave the PC,
said once; and from both the bounds of R60, which every step keeps. -/

namespace Sys2Proof.Machine

open Sys2Proof.Claims

section Rules

variable (s : State)

/-! ### The step and the cycle -/

/-- Where the schedule is exhausted, a step is a tick on the state as it is. -/
theorem step_of_exhausted (h : s.pending = []) : step s = tick s := by
  simp only [step, h]

theorem State.lt_of_fetch_eq_ok {w : Word} (h : s.fetch = .ok w) : s.pc.toNat + 1 < 4096 := by
  by_contra hge
  rw [s.fetch_of_ge (Nat.le_of_not_lt hge)] at h
  cases h

/-- A word that decodes is executed with the PC advanced. -/
theorem State.cycle_of_decode_ok {w : Word} {i : Instr} (hf : s.fetch = .ok w) (hd : decode w = .ok i) :
    s.cycle = exec i s.advance := by
  simp only [State.cycle, hf, hd]

/-- FX0A's rewind undoes the fetch's advance. -/
theorem State.rewind_advance : s.advance.rewind = s := congrArg s.setPc (add_two_sub_two s.pc)

/-! ### Host operations -/

theorem State.load_of_le {bytes : List Byte} (h : bytes.length ≤ 3584) :
    s.load bytes = s.setMem (s.mem.writeBlock Config.loadAddr bytes) := if_neg (Nat.not_lt.mpr h)

theorem State.load_of_gt {bytes : List Byte} (h : 3584 < bytes.length) : s.load bytes = s.refuse := if_pos h

theorem State.setKey_of_lt {k : Nat} (pressed : Bool) (h : k < 16) :
    s.setKey k pressed = { s with keys := s.keys.set k pressed h } := dif_pos h

theorem State.setKey_of_ge {k : Nat} (pressed : Bool) (h : 16 ≤ k) : s.setKey k pressed = s.refuse := dif_neg (Nat.not_lt.mpr h)

/-- The pixel that stands at an index of what `get_display` returns (10_state.md R30). -/
theorem State.getElem_getDisplay (k : Nat) (h : k < 2048) : s.getDisplay[k] = s.fb.pixel (k % 64) (k / 64) :=
  Vector.getElem_ofFn h

/-! ### CALL, RET and the key wait -/

theorem exec_call_of_lt (nnn : Addr12) (h : s.sp.val < 16) :
    exec (.call nnn) s =
      .next ({ s with stack := s.stack.set s.sp.val s.pc h, sp := ⟨s.sp.val + 1, by omega⟩ }.setPc (addrOperand nnn)) := by
  rw [exec, execCall, s.push_of_lt s.pc h]

theorem exec_call_of_full (nnn : Addr12) (h : s.sp.val = 16) : exec (.call nnn) s = .next (s.raise .stackOverflow) := by
  rw [exec, execCall, s.push_of_full s.pc h]

theorem exec_ret_of_succ {k : Nat} (hk : k < 16) (h : s.sp.val = k + 1) :
    exec .ret s = .next ({ s with sp := ⟨k, by omega⟩ }.setPc s.stack[k]) := by
  rw [exec, execRet, s.pop_of_succ hk h]

theorem exec_ret_of_empty (h : s.sp.val = 0) : exec .ret s = .next (s.raise .stackUnderflow) := by
  rw [exec, execRet, s.pop_of_empty h]

theorem exec_ldVxK_of_some (x : RegIdx) {k : Nat} (h : s.leastKey = some k) :
    exec (.ldVxK x) s = .next (s.setReg x (trunc8 k)) := by
  rw [exec, execLdVxK, h]

theorem exec_ldVxK_of_none (x : RegIdx) (h : s.leastKey = none) : exec (.ldVxK x) s = .next s.rewind := by
  rw [exec, execLdVxK, h]

end Rules

/-! ### The ways an instruction may leave the PC (R60) -/

/-- The six instructions that may pass over a word (00_scope.md R17). -/
def IsSkip (i : Instr) : Prop :=
  (∃ x nn, i = .seByte x nn ∨ i = .sneByte x nn) ∨ (∃ x y, i = .seReg x y ∨ i = .sneReg x y) ∨ ∃ x, i = .skp x ∨ i = .sknp x

/-- `PcWay i s a`: executed from `s`, `i` may leave the PC at `a` without a fault. -/
inductive PcWay (i : Instr) (s : State) : Word → Prop
  /-- The next address, where the fetch left the PC. -/
  | next : PcWay i s s.pc
  | skip (hi : IsSkip i) : PcWay i s (s.pc + 2)
  | jump (nnn : Addr12) (hi : i = .jp nnn ∨ i = .call nnn) : PcWay i s (addrOperand nnn)
  | jumpV0 (nnn : Addr12) (hi : i = .jpV0 nnn) : PcWay i s (trunc16 ((s.reg v0).toNat + nnn.toNat))
  | ret (k : Nat) (hk : k < 16) (hi : i = .ret) (hsp : s.sp.val = k + 1) : PcWay i s s.stack[k]
  /-- FX0A is fetched again. -/
  | wait (x : RegIdx) (hi : i = .ldVxK x) (hkeys : ∀ (k : Nat) (_ : k < 16), s.keys[k] = false) : PcWay i s (s.pc - 2)

/-- `r` is a next state, which is `s` with a fault raised, or has its PC where `i` may leave it. -/
def AnswersPc (i : Instr) (s : State) (r : Result) : Prop :=
  ∃ t, r = .next t ∧ ((∃ cause, t = s.raise cause) ∨ PcWay i s t.pc)

section Shared

variable {i : Instr} {s : State}

theorem answersPc_next {t : State} (h : PcWay i s t.pc) : AnswersPc i s (.next t) := ⟨t, rfl, .inr h⟩

theorem answersPc_raise (cause : FaultCause) : AnswersPc i s (.next (s.raise cause)) := ⟨_, rfl, .inl ⟨cause, rfl⟩⟩

theorem answersPc_skipIf (hi : IsSkip i) (c : Bool) : AnswersPc i s (.next (s.skipIf c)) := by
  cases c
  · exact answersPc_next .next
  · exact answersPc_next (.skip hi)

theorem answersPc_checked (found : Option FaultCause) {t : State} (h : PcWay i s t.pc) : AnswersPc i s (checked s found t) := by
  obtain ⟨cause, -, e⟩ | ⟨-, e⟩ := checked_eq s found t <;> rw [e]
  · exact answersPc_raise cause
  · exact answersPc_next h

theorem answersPc_call (nnn : Addr12) : AnswersPc (.call nnn) s (exec (.call nnn) s) := by
  by_cases h : s.sp.val < 16
  · rw [exec_call_of_lt s nnn h]
    exact answersPc_next (.jump nnn (.inr rfl))
  · rw [exec_call_of_full s nnn (by omega)]
    exact answersPc_raise _

theorem answersPc_ret : AnswersPc .ret s (exec .ret s) := by
  cases hsp : s.sp.val with
  | zero =>
    rw [exec_ret_of_empty s hsp]
    exact answersPc_raise _
  | succ k =>
    have hk : k < 16 := by omega
    rw [exec_ret_of_succ s hk hsp]
    exact answersPc_next (.ret k hk rfl hsp)

theorem answersPc_keySkips (hi : IsSkip i) (x : RegIdx) : AnswersPc i s (execSkp x s) ∧ AnswersPc i s (execSknp x s) := by
  unfold execSkp execSknp
  cases s.keyOf x with
  | ok pressed => exact ⟨answersPc_skipIf hi _, answersPc_skipIf hi _⟩
  | error cause => exact ⟨answersPc_raise cause, answersPc_raise cause⟩

theorem answersPc_ldVxK (x : RegIdx) : AnswersPc (.ldVxK x) s (exec (.ldVxK x) s) := by
  cases h : s.leastKey with
  | some k =>
    rw [exec_ldVxK_of_some s x h]
    exact answersPc_next .next
  | none =>
    rw [exec_ldVxK_of_none s x h]
    exact answersPc_next (.wait x rfl (s.leastKey_eq_none.mp h))

end Shared

/-- Every instruction raises a fault or leaves the PC in one of its own ways. -/
theorem exec_answersPc (i : Instr) (s : State) : AnswersPc i s (exec i s) := by
  cases i with
  | nop | cls | ldByte | addByte | ldReg | orReg | andReg | xorReg | addReg | subReg | shr | subnReg | shl | ldI | rnd
  | ldVxDt | ldDtVx | ldStVx | addI | ldF => exact answersPc_next .next
  | drw | ldB | storeRegs | loadRegs => exact answersPc_checked _ .next
  | jp nnn => exact answersPc_next (.jump nnn (.inl rfl))
  | call nnn => exact answersPc_call nnn
  | jpV0 nnn => exact answersPc_next (.jumpV0 nnn rfl)
  | ret => exact answersPc_ret
  | seByte x nn => exact answersPc_skipIf (.inl ⟨x, nn, .inl rfl⟩) _
  | sneByte x nn => exact answersPc_skipIf (.inl ⟨x, nn, .inr rfl⟩) _
  | seReg x y => exact answersPc_skipIf (.inr (.inl ⟨x, y, .inl rfl⟩)) _
  | sneReg x y => exact answersPc_skipIf (.inr (.inl ⟨x, y, .inr rfl⟩)) _
  | skp x => exact (answersPc_keySkips (.inr (.inr ⟨x, .inl rfl⟩)) x).1
  | sknp x => exact (answersPc_keySkips (.inr (.inr ⟨x, .inr rfl⟩)) x).2
  | ldVxK x => exact answersPc_ldVxK x

theorem pcWay_of_exec {i : Instr} {s t : State} (h : exec i s = .next t) : (∃ cause, t = s.raise cause) ∨ PcWay i s t.pc := by
  obtain ⟨u, hu, hway⟩ := exec_answersPc i s
  obtain rfl : u = t := Host.Outcome.next.inj (hu.symm.trans h)
  exact hway

/-- The sum of JP V0 does not wrap: it is at most 255 + 4095. -/
theorem toNat_jumpV0 (b : Byte) (nnn : Addr12) :
    (trunc16 (b.toNat + nnn.toNat)).toNat = b.toNat + nnn.toNat ∧ b.toNat + nnn.toNat ≤ 4350 := by
  have hb := b.isLt
  have hn := nnn.isLt
  rw [toNat_trunc16]
  omega

/-! ### What an instruction keeps of the invariant -/

section Kept

variable {i : Instr} {s t : State}

/-- The invariant speaks of memory, PC and the stack entries alone. -/
theorem State.Inv.congr (hs : s.Inv) (hmem : t.mem = s.mem) (hpc : t.pc = s.pc) (hstack : t.stack = s.stack) : t.Inv where
  mem_wf := hmem ▸ hs.mem_wf
  pc_le := hpc ▸ hs.pc_le
  stack_le := hstack ▸ hs.stack_le

/-- A checked block write keeps the canonical form: what passes the check is in range. -/
theorem mem_wf_of_checked_writeBlock {a n : Nat} {k : AccessKind} {bytes : List Byte} (hm : s.mem.wf) (hn : bytes.length = n)
    (h : checked s (rangeFault a n k) (s.setMem (s.mem.writeBlock a bytes)) = .next t) : t.mem.wf := by
  obtain ⟨hrange, e⟩ | ⟨-, -, e⟩ := checked_rangeFault s a n k (s.setMem (s.mem.writeBlock a bytes)) <;>
    obtain rfl := Host.Outcome.next.inj (e.symm.trans h)
  · obtain rfl | hle := hrange
    · rw [List.eq_nil_of_length_eq_zero hn]
      exact hm
    · exact Memory.wf_writeBlock bytes hm a (hn ▸ hle)
  · exact hm

/-- FX33 and FX55 alone write memory, and they check their range. -/
theorem exec_mem_wf (hm : s.mem.wf) (h : exec i s = .next t) : t.mem.wf := by
  cases effect_of_exec h with
  | setMem m hi =>
    obtain ⟨x, rfl | rfl⟩ := hi
    · exact mem_wf_of_checked_writeBlock (bytes := decimalDigits (s.reg x)) (n := 3) hm rfl h
    · exact mem_wf_of_checked_writeBlock hm (by simp [State.regBlock]) h
  | raise | setPc | setReg | setWithFlag | setRegBlock | setI | pop | push | clear | draw | setDt | setSt | random => exact hm

/-- CALL alone writes a stack entry, and the entry is the PC. -/
theorem exec_stack_le (hpc : s.pc.toNat ≤ 4096) (hstack : ∀ (k : Nat) (_ : k < 16), s.stack[k].toNat ≤ 4096)
    (h : exec i s = .next t) : ∀ (k : Nat) (_ : k < 16), t.stack[k].toNat ≤ 4096 := by
  cases effect_of_exec h with
  | push n entries a hi =>
    obtain ⟨nnn, rfl⟩ := hi
    by_cases hsp : s.sp.val < 16
    · rw [exec_call_of_lt s nnn hsp] at h
      rw [← Host.Outcome.next.inj h]
      intro k hk
      simp only [State.setPc_stack, Vector.getElem_set]
      split
      · exact hpc
      · exact hstack k hk
    · rw [exec_call_of_full s nnn (by omega)] at h
      rw [← Host.Outcome.next.inj h]
      exact hstack
  | raise | setPc | setReg | setWithFlag | setRegBlock | setI | pop | clear | draw | setMem | setDt | setSt | random =>
    exact hstack

/-- Undoing the fetch advance does not wrap, where the PC has been advanced. -/
theorem toNat_sub_two_le {a : Word} (h : 2 ≤ a.toNat) : (a - 2).toNat ≤ a.toNat := by
  bv_omega

theorem PcWay.toNat_le {a : Word} (hway : PcWay i s a) (h2 : 2 ≤ s.pc.toNat) (hpc : s.pc.toNat ≤ 4096)
    (hstack : ∀ (k : Nat) (_ : k < 16), s.stack[k].toNat ≤ 4096) : a.toNat ≤ 4350 := by
  cases hway with
  | next => omega
  | skip => bv_omega
  | jump nnn =>
    have := nnn.isLt
    rw [toNat_addrOperand]
    omega
  | jumpV0 nnn =>
    obtain ⟨e, hle⟩ := toNat_jumpV0 (s.reg v0) nnn
    exact e.trans_le hle
  | ret k hk => exact (hstack k hk).trans (by decide)
  | wait => exact (toNat_sub_two_le h2).trans (hpc.trans (by decide))

/-- An instruction keeps the invariant, from a PC that the fetch advanced within memory. -/
theorem exec_inv (hs : s.Inv) (h2 : 2 ≤ s.pc.toNat) (hpc : s.pc.toNat ≤ 4096) (h : exec i s = .next t) : t.Inv where
  mem_wf := exec_mem_wf hs.mem_wf h
  pc_le := by
    obtain ⟨cause, rfl⟩ | hway := pcWay_of_exec h
    · exact (toNat_sub_two_le h2).trans (hpc.trans (by decide))
    · exact hway.toNat_le h2 hpc hs.stack_le
  stack_le := exec_stack_le hpc hs.stack_le h

/-! ### What a cycle and a host operation keep of it -/

/-- A fault leaves the PC where it was, and an instruction that is executed was fetched within memory. -/
theorem State.cycle_inv (hs : s.Inv) (h : s.cycle = .next t) : t.Inv := by
  cases hf : s.fetch with
  | error cause =>
    obtain rfl := Host.Outcome.next.inj ((s.cycle_of_fetch_error hf).symm.trans h)
    exact hs.congr rfl rfl rfl
  | ok w =>
    cases hd : decode w with
    | error e =>
      obtain rfl := Host.Outcome.next.inj ((s.cycle_of_decode_error hf hd).symm.trans h)
      exact hs.congr rfl rfl rfl
    | ok i =>
      have hlt := s.lt_of_fetch_eq_ok hf
      have hpc : s.advance.pc.toNat = s.pc.toNat + 2 := by rw [State.advance_pc]; bv_omega
      have hadvance : s.advance.Inv := ⟨hs.mem_wf, by omega, hs.stack_le⟩
      exact exec_inv hadvance (by omega) (by omega) ((s.cycle_of_decode_ok hf hd).symm.trans h)

theorem State.hostReset_inv (s : State) : s.hostReset.Inv := Proofs.resetMeetsTheInvariant.congr rfl rfl rfl

theorem State.load_inv (hs : s.Inv) (bytes : List Byte) : (s.load bytes).Inv := by
  by_cases h : bytes.length ≤ 3584
  · rw [s.load_of_le h]
    exact ⟨Memory.wf_writeBlock bytes hs.mem_wf Config.loadAddr (Nat.add_le_add_left h 512), hs.pc_le, hs.stack_le⟩
  · rw [s.load_of_gt (Nat.lt_of_not_le h)]
    exact hs.congr rfl rfl rfl

theorem State.setKey_inv (hs : s.Inv) (k : Nat) (pressed : Bool) : (s.setKey k pressed).Inv := by
  by_cases h : k < 16
  · rw [s.setKey_of_lt pressed h]
    exact hs.congr rfl rfl rfl
  · rw [s.setKey_of_ge pressed (Nat.le_of_not_lt h)]
    exact hs.congr rfl rfl rfl

/-- A guarded operation keeps the invariant, where what it answers on a running state does. -/
theorem State.ifRunning_inv {u : State} (hu : u.Inv) (h : s.ifRunning (.next u) = .next t) : t.Inv :=
  Host.Outcome.next.inj (s.ifRunning_eq_next.mp h).2 ▸ hu

theorem perform_inv {op : HostOp} (hs : s.Inv) (h : perform op s = .next t) : t.Inv := by
  cases op with
  | reset => exact State.ifRunning_inv s.hostReset_inv h
  | load bytes => exact State.ifRunning_inv (State.load_inv hs bytes) h
  | setKey k pressed => exact State.ifRunning_inv (State.setKey_inv hs k pressed) h
  | tick => exact State.cycle_inv hs ((tick_eq_next s).mp h).2
  | tickTimers => exact State.ifRunning_inv (u := s.tickTimers) (hs.congr rfl rfl rfl) h
  | getDisplay => exact Host.Outcome.next.inj h ▸ hs

end Kept

end Sys2Proof.Machine

namespace Sys2Proof.Proofs

open Sys2Proof Sys2Proof.Machine Sys2Proof.Claims

/-- Settles O55: the head of the schedule is performed, and an exhausted one gives a tick. -/
theorem stepPerformsTheNextOperation : Obligations.StepPerformsTheNextOperation :=
  fun s => ⟨fun _ _ h => step_of_pending s h, step_of_exhausted s⟩

/-- Settles O8: a step performs one operation, and every operation keeps the invariant, which does not speak of the schedule. -/
theorem everyStepKeepsTheInvariant : Obligations.EveryStepKeepsTheInvariant := by
  intro s t hs h
  obtain ⟨hop, htick⟩ := stepPerformsTheNextOperation s
  cases hp : s.pending with
  | nil => exact perform_inv hs ((htick hp).symm.trans h)
  | cons op rest =>
    have hrest : ({ s with pending := rest } : State).Inv := hs.congr rfl rfl rfl
    exact perform_inv hrest ((hop op rest hp).symm.trans h)

/-- Settles O23: a fault is excluded, and each other way of the PC is one of the list. -/
theorem pcChangesOnlyAsListed : Obligations.PcChangesOnlyAsListed := by
  intro i s t _ h ht
  obtain ⟨cause, rfl⟩ | hway := pcWay_of_exec h
  · cases ht
  · generalize t.pc = a at hway ⊢
    cases hway with
    | next => exact .inl rfl
    | skip hi => exact .inr (.inl ⟨rfl, hi⟩)
    | jump nnn hi => exact .inr (.inr (.inl ⟨nnn, hi, toNat_addrOperand nnn⟩))
    | jumpV0 nnn hi =>
      obtain ⟨e, hle⟩ := toNat_jumpV0 (s.reg v0) nnn
      exact .inr (.inr (.inr (.inl ⟨nnn, hi, e, e.trans_le hle⟩)))
    | ret k hk hi hsp => exact .inr (.inr (.inr (.inr (.inl ⟨k, hk, hi, hsp, rfl⟩))))
    | wait x hi hkeys => exact .inr (.inr (.inr (.inr (.inr ⟨x, hi, rfl, hkeys⟩))))

/-- Settles O2: the step is a tick, its cycle fetches the word at the PC, and that word decodes. -/
theorem stepExecutesTheWordAtThePc : Obligations.StepExecutesTheWordAtThePc := by
  intro s i hs htick hpc hdecode
  let u : State := { s with pending := s.pending.tail }
  have hfetch : u.fetch = .ok (wordAtPc s) := u.fetch_of_lt hpc
  calc step s = tick u := step_of_tick s htick
    _ = u.cycle := u.ifRunning_of_none hs
    _ = exec i u.advance := u.cycle_of_decode_ok hfetch hdecode

/-- Settles O24: the word is the JP to the PC, which sets the PC to the value it had before the fetch. -/
theorem selfJumpLeavesTheStateUnchanged : Obligations.SelfJumpLeavesTheStateUnchanged := by
  intro s hs htick hpc hw
  let nnn : Addr12 := BitVec.ofNat 12 s.pc.toNat
  have hnnn : nnn.toNat = s.pc.toNat := BitVec.toNat_ofNat .. ▸ Nat.mod_eq_of_lt (by omega)
  have hdecode : decode (wordAtPc s) = .ok (.jp nnn) :=
    decode_eq_ok_iff.mpr (BitVec.eq_of_toNat_eq (by rw [encode, toNat_ofNNN, hw, hnnn]; rfl))
  have htarget : addrOperand nnn = s.pc := BitVec.eq_of_toNat_eq ((toNat_addrOperand nnn).trans hnnn)
  let u : State := { s with pending := s.pending.tail }
  calc step s = exec (.jp nnn) u.advance := stepExecutesTheWordAtThePc s _ hs htick hpc hdecode
    _ = .next (u.advance.setPc (addrOperand nnn)) := rfl
    _ = .next u := by rw [htarget]; rfl

/-- Settles O44: the word is an FX0A, which finds no key pressed and undoes the fetch's advance. -/
theorem waitingTickLeavesTheStateUnchanged : Obligations.WaitingTickLeavesTheStateUnchanged := by
  intro s x hs htick hpc hw hkeys
  have hdecode : decode (wordAtPc s) = .ok (.ldVxK (fieldX (wordAtPc s))) := decodesTo_withFields (.ldVxK x) _ hw
  let u : State := { s with pending := s.pending.tail }
  have hnone : u.advance.leastKey = none := u.advance.leastKey_eq_none.mpr hkeys
  calc step s = exec (.ldVxK (fieldX (wordAtPc s))) u.advance := stepExecutesTheWordAtThePc s _ hs htick hpc hdecode
    _ = .next u.advance.rewind := exec_ldVxK_of_none _ _ hnone
    _ = .next u := by rw [u.rewind_advance]

/-- Settles O50: the state runs, and the key is in range or the operation refused. -/
theorem setKeyWritesOneFlag : Obligations.SetKeyWritesOneFlag := by
  intro s k pressed hs
  have hrun : perform (.setKey k pressed) s = .next (s.setKey k pressed) := s.ifRunning_of_none hs
  refine ⟨fun hk => ⟨_, hrun, ?_⟩, fun hk => ?_⟩
  · rw [s.setKey_of_lt pressed hk]
    exact ⟨Vector.getElem_set_self hk, fun j hj hne => Vector.getElem_set_ne hk hj hne.symm, rfl⟩
  · rw [hrun, s.setKey_of_ge pressed hk]
    rfl

/-- Settles O53: column and row of element `x + 64*y` are `x` and `y`. -/
theorem getDisplayIsRowMajor : Obligations.GetDisplayIsRowMajor := by
  refine fun s => ⟨rfl, fun x y hx hy h => ?_⟩
  rw [s.getElem_getDisplay, show (x + 64 * y) % 64 = x by omega, show (x + 64 * y) / 64 = y by omega]

end Sys2Proof.Proofs
end

section
/-! PROOFS. The control family (41_control.md): which updates stay within a frame, said once; and from that the jumps, CALL and RET, and
the register skips. -/

namespace Sys2Proof.Claims

open Sys2Proof.Machine

/-! ### Updates within a frame -/

section Frames

variable {w : Writes} {s t : State}

theorem Frame.refl (w : Writes) (s : State) : Frame w s s where
  regs _ _ := rfl
  index _ := rfl
  pc _ := rfl
  stack _ := ⟨rfl, fun _ _ => rfl⟩
  dt _ := rfl
  st _ := rfl
  screen _ _ _ _ _ := rfl
  memory _ _ := rfl
  draws _ := rfl
  keys _ _ := rfl
  marks := ⟨rfl, rfl⟩
  pending := rfl

/-- A frame that names the PC lets it be written. -/
theorem Frame.setPc (h : Frame w s t) (hw : w.pc = true) (a : Word) : Frame w s (t.setPc a) :=
  { h with pc := fun hf => absurd hf (by simp [hw]) }

/-- A frame that names the stack lets SP and the entries be written. -/
theorem Frame.setStack (h : Frame w s t) (hw : w.stack = true) (entries : Vector Word 16) (n : Fin 17) :
    Frame w s { t with stack := entries, sp := n } :=
  { h with stack := fun hf => absurd hf (by simp [hw]) }

/-- A frame that names the PC lets a skip be taken. -/
theorem Frame.skipIf (h : Frame w s t) (hw : w.pc = true) (c : Bool) : Frame w s (t.skipIf c) := by
  cases c
  · exact h
  · exact h.setPc hw (t.pc + 2)

end Frames

end Sys2Proof.Claims

namespace Sys2Proof.Machine

/-! ### Where a skip that compares two values leaves the PC -/

section Skips

variable (s : State) (a b : Byte)

theorem State.skipIf_eq_pc : (s.skipIf (decide (a = b))).pc = if a.toNat = b.toNat then s.pc + 2 else s.pc := by
  simp [BitVec.toNat_inj]

theorem State.skipIf_ne_pc : (s.skipIf (decide (a ≠ b))).pc = if a.toNat = b.toNat then s.pc else s.pc + 2 := by
  simp [BitVec.toNat_inj]

end Skips

end Sys2Proof.Machine

namespace Sys2Proof.Proofs

open Sys2Proof Sys2Proof.Machine Sys2Proof.Claims

/-- Settles O17: JP and JP V0 write the PC alone, and the sum of JP V0 fits in it. -/
theorem jumpTargets : Obligations.JumpTargets := by
  refine ⟨fun nnn s => ⟨?_, ?_, ?_⟩,
    decodesTo_withFields (.jp 0), decodesTo_withFields (.jpV0 0), decodesTo_withFields .nop⟩
  · exact ⟨_, rfl, toNat_addrOperand nnn, (Frame.refl _ s).setPc rfl _⟩
  · exact ⟨_, rfl, (toNat_jumpV0 (s.reg v0) nnn).1, (Frame.refl _ s).setPc rfl _⟩
  · exact ⟨s, rfl, Frame.refl _ s⟩

/-- Settles O18: the entry at SP is set, and no other. -/
theorem callPushesTheReturnAddress : Obligations.CallPushesTheReturnAddress := by
  refine ⟨fun nnn s h => ⟨_, exec_call_of_lt s nnn h, ?_, ?_, rfl, toNat_addrOperand nnn, ?_⟩, decodesTo_withFields (.call 0)⟩
  · exact Vector.getElem_set_self h
  · exact fun k hk hne => Vector.getElem_set_ne h hk hne.symm
  · exact ((Frame.refl _ s).setStack rfl _ _).setPc rfl _

/-- Settles O19: SP and the PC are written, and the entries stay as they are. -/
theorem returnPopsTheLastEntry : Obligations.ReturnPopsTheLastEntry := by
  refine ⟨fun s k hk hsp => ⟨_, exec_ret_of_succ s hk hsp, rfl, rfl, fun _ _ => rfl, ?_⟩, decodesTo_withFields .ret⟩
  exact ((Frame.refl _ s).setStack rfl s.stack _).setPc rfl _

/-- Settles O20: the entry that RET takes is the one that CALL set. -/
theorem returnResumesAfterTheCall : Obligations.ReturnResumesAfterTheCall := by
  intro nnn s t u h hcall hsp hstack
  obtain ⟨t', ht', hentry, -, hspCall, -⟩ := callPushesTheReturnAddress.1 nnn s h
  obtain rfl : t' = t := Host.Outcome.next.inj (ht'.symm.trans hcall)
  obtain ⟨r, hret, hpc, hspRet, -⟩ := returnPopsTheLastEntry.1 u s.sp.val h (hsp ▸ hspCall)
  refine ⟨r, hret, ?_, Fin.ext hspRet⟩
  calc r.pc = u.stack[s.sp.val] := hpc
    _ = t'.stack[s.sp.val] := by rw [hstack]
    _ = s.pc := hentry

/-- Settles O21: with no live entry there is none to pop, and with 16 no room to push. -/
theorem stackFaults : Obligations.StackFaults := by
  intro nnn s
  simp only [← s.raise_eq_faultedAt]
  exact ⟨exec_ret_of_empty s, exec_call_of_full s nnn⟩

/-- Settles O22: each skip compares two bytes, and they are equal exactly when their numbers are. -/
theorem registerSkips : Obligations.RegisterSkips := by
  refine ⟨fun x y nn s => ⟨?_, ?_, ?_, ?_⟩, decodesTo_withFields (.seByte 0 0), decodesTo_withFields (.sneByte 0 0),
    decodesTo_withFields (.seReg 0 0), decodesTo_withFields (.sneReg 0 0)⟩
  · exact ⟨_, rfl, s.skipIf_eq_pc (s.reg x) nn, (Frame.refl _ s).skipIf rfl _⟩
  · exact ⟨_, rfl, s.skipIf_ne_pc (s.reg x) nn, (Frame.refl _ s).skipIf rfl _⟩
  · exact ⟨_, rfl, s.skipIf_eq_pc (s.reg x) (s.reg y), (Frame.refl _ s).skipIf rfl _⟩
  · exact ⟨_, rfl, s.skipIf_ne_pc (s.reg x) (s.reg y), (Frame.refl _ s).skipIf rfl _⟩

end Sys2Proof.Proofs
end

section
/-! PROOFS. The ALU family (42_alu.md): writing a register stays within a frame that names it; what the data and the flag of each
instruction are in the terms of bit vectors; and from that the twelve instructions. -/

namespace Sys2Proof.Claims

open Sys2Proof.Machine

/-! ### Register writes within a frame -/

section Frames

variable {w : Writes} {s t : State} {x : RegIdx}

/-- A frame that names a register lets it be written. -/
theorem Frame.setReg (h : Frame w s t) (hx : x ∈ w.regs) (b : Byte) : Frame w s (t.setReg x b) :=
  { h with regs := fun r hr => (t.reg_setReg_of_ne b (ne_of_mem_of_not_mem hx hr).symm).trans (h.regs r hr) }

/-- A frame that names the destination and VF lets a flag instruction write both. -/
theorem Frame.setWithFlag (h : Frame w s t) (hx : x ∈ w.regs) (hF : vF ∈ w.regs) (data : Byte) (flag : Bool) :
    Frame w s (t.setWithFlag x data flag) :=
  (h.setReg hx data).setReg hF (flagByte flag)

/-- A frame that names the count of draws lets a draw be counted. -/
theorem Frame.countDraw (h : Frame w s t) (hw : w.draws = true) : Frame w s t.countDraw :=
  { h with draws := fun hf => absurd hf (by simp [hw]) }

/-- A write of one register, in the frame that names it alone. -/
theorem frame_setReg (s : State) (x : RegIdx) (b : Byte) : Frame { regs := [x] } s (s.setReg x b) :=
  (Frame.refl _ s).setReg List.mem_cons_self b

/-- The writes of a flag instruction, in the frame that names its destination and VF alone. -/
theorem frame_setWithFlag (s : State) (x : RegIdx) (data : Byte) (flag : Bool) :
    Frame { regs := [x, 0xF#4] } s (s.setWithFlag x data flag) :=
  (Frame.refl _ s).setWithFlag List.mem_cons_self (List.mem_cons_of_mem x List.mem_cons_self) data flag

end Frames

end Sys2Proof.Claims

namespace Sys2Proof.Machine

open Sys2Proof.Claims

/-! ### What the flag instructions leave in their destination and in VF -/

/-- The answer of a flag instruction, whose data is the byte `d` and whose flag the byte `f`: VF is written last, so it holds `f` also
where it is the destination (D5). -/
theorem State.setWithFlag_answers (s : State) (x : RegIdx) {data d f : Byte} {flag : Bool} (hd : data = d)
    (hf : flagByte flag = f) :
    ∃ t, (.next (s.setWithFlag x data flag) : Result) = .next t ∧ (x ≠ 0xF#4 → t.reg x = d) ∧ t.reg 0xF#4 = f ∧
      Frame { regs := [x, 0xF#4] } s t := by
  refine ⟨_, rfl, fun hx => ?_, ?_, frame_setWithFlag s x data flag⟩
  · rw [s.reg_setWithFlag, if_neg (show x ≠ vF from hx), if_pos rfl, hd]
  · exact (s.reg_setWithFlag x vF data flag).trans ((if_pos rfl).trans hf)

/-! ### Their data and flags as bit vectors -/

section Values

variable (a b : Byte)

/-- The 256 added before a subtraction of naturals is lost in the truncation. -/
theorem trunc8_sub : trunc8 (a.toNat + 256 - b.toNat) = a - b := by
  apply BitVec.eq_of_toNat_eq
  rw [toNat_trunc8, BitVec.toNat_sub]
  omega

theorem trunc8_half : trunc8 (a.toNat / 2) = a >>> 1 := by
  apply BitVec.eq_of_toNat_eq
  rw [toNat_trunc8, BitVec.toNat_ushiftRight, Nat.shiftRight_eq_div_pow]
  omega

theorem trunc8_double : trunc8 (a.toNat * 2) = a <<< 1 := by
  apply BitVec.eq_of_toNat_eq
  rw [toNat_trunc8, BitVec.toNat_shiftLeft, Nat.shiftLeft_eq]

theorem flagByte_carry : flagByte (carry a b) = if a.toNat + b.toNat ≥ 256 then 1 else 0 := by
  simp [flagByte, carry]

/-- There is no borrow exactly when the true difference is not negative. -/
theorem flagByte_noBorrow : flagByte (noBorrow a b) = if a.toNat < b.toNat then 0 else 1 := by
  simp only [flagByte, noBorrow, decide_eq_true_eq, ← Nat.not_lt, ite_not]

theorem flagByte_lowBit : flagByte (lowBit a) = if a.getLsbD 0 then 1 else 0 := by
  simp [flagByte, lowBit, BitVec.getLsbD, Nat.testBit_eq_decide_div_mod_eq]

theorem flagByte_highBit : flagByte (highBit a) = if a.getLsbD 7 then 1 else 0 := by
  simp [flagByte, highBit, BitVec.getLsbD, Nat.testBit_eq_decide_div_mod_eq]

end Values

end Sys2Proof.Machine

namespace Sys2Proof.Proofs

open Sys2Proof Sys2Proof.Machine Sys2Proof.Claims

/-- Settles O25: each writes Vx alone, ADD the sum truncated to 8 bits. -/
theorem loadsAndAddImmediate : Obligations.LoadsAndAddImmediate := by
  refine ⟨fun x y nn s => ⟨?_, ?_, ?_⟩,
    decodesTo_withFields (.ldByte 0 0), decodesTo_withFields (.addByte 0 0), decodesTo_withFields (.ldReg 0 0)⟩
  · exact ⟨_, rfl, s.reg_setReg_self x nn, frame_setReg s x _⟩
  · refine ⟨_, rfl, ?_, frame_setReg s x _⟩
    rw [s.reg_setReg_self, toNat_trunc8]
  · exact ⟨_, rfl, s.reg_setReg_self x _, frame_setReg s x _⟩

/-- Settles O26: each writes Vx alone, and a bit of the result is the operation on that bit of the operands. -/
theorem bitwiseLogic : Obligations.BitwiseLogic := by
  refine ⟨fun x y s => ⟨?_, ?_, ?_⟩,
    decodesTo_withFields (.orReg 0 0), decodesTo_withFields (.andReg 0 0), decodesTo_withFields (.xorReg 0 0)⟩
  · refine ⟨_, rfl, fun k _ => ?_, frame_setReg s x _⟩
    rw [s.reg_setReg_self, BitVec.getLsbD_or]
  · refine ⟨_, rfl, fun k _ => ?_, frame_setReg s x _⟩
    rw [s.reg_setReg_self, BitVec.getLsbD_and]
  · refine ⟨_, rfl, fun k _ => ?_, frame_setReg s x _⟩
    rw [s.reg_setReg_self, BitVec.getLsbD_xor]

/-- Settles O27: the data is the truncated sum and the flag its carry. -/
theorem addWithCarry : Obligations.AddWithCarry := by
  refine ⟨fun x y s => ?_, decodesTo_withFields (.addReg 0 0)⟩
  obtain ⟨t, ht, hdata, hflag, hframe⟩ := s.setWithFlag_answers x rfl (flagByte_carry (s.reg x) (s.reg y))
  exact ⟨t, ht, fun hx => (congrArg BitVec.toNat (hdata hx)).trans (toNat_trunc8 _), hflag, hframe⟩

/-- Settles O28: SUB and SUBN write the same difference with the operands exchanged. -/
theorem subtractWithBorrow : Obligations.SubtractWithBorrow :=
  ⟨fun x _ s => ⟨s.setWithFlag_answers x (trunc8_sub _ _) (flagByte_noBorrow _ _),
      s.setWithFlag_answers x (trunc8_sub _ _) (flagByte_noBorrow _ _)⟩,
    decodesTo_withFields (.subReg 0 0), decodesTo_withFields (.subnReg 0 0)⟩

/-- Settles O29: half and double of Vx are its shifts, and the bit shifted out is bit 0 or bit 7. -/
theorem shiftsByOneBit : Obligations.ShiftsByOneBit :=
  ⟨fun x _ s => ⟨s.setWithFlag_answers x (trunc8_half _) (flagByte_lowBit _),
      s.setWithFlag_answers x (trunc8_double _) (flagByte_highBit _)⟩,
    decodesTo_withFields (.shr 0 0), decodesTo_withFields (.shl 0 0)⟩

/-- Settles O30: Vx is the draw and NN, bit by bit, so it has no bit that NN has not. -/
theorem randomByteIsMasked : Obligations.RandomByteIsMasked := by
  refine ⟨fun x nn s => ?_, decodesTo_withFields (.rnd 0 0)⟩
  have hreg : (s.setReg x (Config.randomByte s.draws &&& nn)).countDraw.reg x = Config.randomByte s.draws &&& nn :=
    s.reg_setReg_self x _
  refine ⟨_, rfl, hreg, fun k hk => ?_, ?_, rfl, ((Frame.refl _ s).setReg List.mem_cons_self _).countDraw rfl⟩
  · rw [hreg, BitVec.getLsbD_and, hk, Bool.and_false]
  · rw [hreg, BitVec.toNat_and]
    exact Nat.and_le_right

end Sys2Proof.Proofs
end

section
/-! PROOFS. The index and memory family (43_index_memory.md): which updates of I, memory and V0 to Vx stay within a frame; what a checked
access that is in range answers; the bytes that FX33 and FX55 store; and from that the six instructions. -/

namespace Sys2Proof.Claims

open Sys2Proof.Machine

/-! ### Updates of I, memory and V0 to Vx within a frame -/

section Frames

variable {w : Writes} {s t : State}

/-- A frame that names I lets it be written. -/
theorem Frame.setI (h : Frame w s t) (hw : w.index = true) (a : Word) : Frame w s (t.setI a) :=
  { h with index := fun hf => absurd hf (by simp [hw]) }

/-- A frame that names memory lets it be replaced. -/
theorem Frame.setMem (h : Frame w s t) (hw : w.memory = true) (m : Memory) : Frame w s (t.setMem m) :=
  { h with memory := fun hf => absurd hf (by simp [hw]) }

/-- A replacement of the register file stays within a frame where the registers that the frame does not name keep their value. -/
theorem Frame.setRegs (h : Frame w s t) (v : Vector Byte 16)
    (hv : ∀ r, r ∉ w.regs → State.reg { t with v := v } r = t.reg r) : Frame w s { t with v := v } :=
  { h with regs := fun r hr => (hv r hr).trans (h.regs r hr) }

/-- A frame that names V0 to Vx lets them be loaded. -/
theorem Frame.setRegBlock (h : Frame w s t) {x : RegIdx} (hx : ∀ r : RegIdx, r.toNat ≤ x.toNat → r ∈ w.regs) (a : Nat) :
    Frame w s (t.setRegBlock x a) :=
  h.setRegs _ fun r hr => (t.reg_setRegBlock x r a).trans (if_neg fun hle => hr (hx r hle))

end Frames

/-- The sixteen registers, as the frame of FX65 lists them. -/
theorem mem_allRegs (r : RegIdx) : r ∈ (List.range 16).map (BitVec.ofNat 4) :=
  List.mem_map.mpr ⟨r.toNat, List.mem_range.mpr r.isLt, by simp⟩

end Sys2Proof.Claims

namespace Sys2Proof.Machine

open Sys2Proof.Claims

/-! ### Reading a block that was written -/

/-- A written address reads as its byte. -/
theorem Memory.read_writeBlock_add {m : Memory} (hm : m.wf) (bs : List Byte) (a : Nat) {k : Nat} (hk : k < bs.length) :
    (m.writeBlock a bs).read (a + k) = bs[k] := by
  rw [Memory.read_writeBlock bs hm.1, dif_pos (by omega)]
  simp only [Nat.add_sub_cancel_left]

/-! ### Accesses in range -/

section Accesses

variable (s : State)

/-- A checked access through I that fits has its effect. -/
theorem checked_base_of_le {n : Nat} (k : AccessKind) (effect : State) (h : s.i.toNat + n ≤ 4096) :
    checked s (rangeFault s.base n k) effect = .next effect := by
  rw [State.base, rangeFault_eq_none.mpr (.inr h)]
  rfl

/-- The answer of a block store through I that fits: the bytes stand from I on, and nothing else is written. -/
theorem checked_writeBlock_answers (hm : s.mem.wf) {n : Nat} {bytes : List Byte} (hn : bytes.length = n)
    (h : s.i.toNat + n ≤ 4096) :
    ∃ t, checked s (rangeFault s.base n .write) (s.setMem (s.mem.writeBlock s.base bytes)) = .next t ∧
      (∀ (k : Nat) (hk : k < bytes.length), t.mem.read (s.i.toNat + k) = bytes[k]) ∧
      (∀ a, a < s.i.toNat ∨ s.i.toNat + n ≤ a → t.mem.read a = s.mem.read a) ∧ Frame { memory := true } s t := by
  subst hn
  exact ⟨_, checked_base_of_le s .write _ h, fun _ hk => Memory.read_writeBlock_add hm bytes s.base hk,
    fun _ ha => Memory.read_writeBlock_outside hm.1 ha, (Frame.refl _ s).setMem rfl _⟩

/-! ### The bytes that are stored -/

@[simp] theorem State.length_regBlock (x : RegIdx) : (s.regBlock x).length = blockCount x := by
  simp [State.regBlock]

/-- Byte `r` of the block of V0 to Vx is Vr. -/
theorem State.getElem_regBlock {x r : RegIdx} (h : r.toNat < (s.regBlock x).length) : (s.regBlock x)[r.toNat] = s.reg r := by
  simp [State.regBlock]

end Accesses

@[simp] theorem length_decimalDigits (b : Byte) : (decimalDigits b).length = 3 := rfl

/-- A decimal digit is not truncated when it is stored as a byte. -/
theorem toNat_decimalDigit {n : Nat} (h : n < 10) : (BitVec.ofNat 8 n).toNat = n :=
  Nat.mod_eq_of_lt (Nat.lt_trans h (by decide))

end Sys2Proof.Machine

namespace Sys2Proof.Proofs

open Sys2Proof Sys2Proof.Machine Sys2Proof.Claims

/-- Settles O34: the three digits are a block store at I. -/
theorem decimalDigitsStored : Obligations.DecimalDigitsStored := by
  refine ⟨fun x s hm h => ?_, decodesTo_withFields (.ldB 0)⟩
  obtain ⟨t, ht, hbytes, hother, hframe⟩ :=
    checked_writeBlock_answers s hm (length_decimalDigits (s.reg x)) h
  have hlt := (s.reg x).isLt
  refine ⟨t, ht, ?_, ?_, ?_, hother, hframe⟩
  · exact (congrArg BitVec.toNat (hbytes 0 (by simp))).trans (toNat_decimalDigit (by omega))
  · exact (congrArg BitVec.toNat (hbytes 1 (by simp))).trans (toNat_decimalDigit (by omega))
  · exact (congrArg BitVec.toNat (hbytes 2 (by simp))).trans (toNat_decimalDigit (by omega))

/-- Settles O35: V0 to Vx are a block store at I. -/
theorem registerBlockStored : Obligations.RegisterBlockStored := by
  refine ⟨fun x s hm h => ?_, decodesTo_withFields (.storeRegs 0)⟩
  obtain ⟨t, ht, hbytes, hother, hframe⟩ := checked_writeBlock_answers s hm (s.length_regBlock x) h
  refine ⟨t, ht, fun r hr => ?_, hother, hframe⟩
  have hlen : r.toNat < (s.regBlock x).length := by
    rw [s.length_regBlock]
    exact Nat.lt_succ_of_le hr
  exact (hbytes r.toNat hlen).trans (s.getElem_regBlock hlen)

/-- Settles O36: the registers up to X take the bytes from I on, in a frame that names every register. -/
theorem registerBlockLoaded : Obligations.RegisterBlockLoaded := by
  refine ⟨fun x s h => ?_, decodesTo_withFields (.loadRegs 0)⟩
  exact ⟨_, checked_base_of_le s .read _ h, fun r => s.reg_setRegBlock x r s.base,
    (Frame.refl _ s).setRegBlock (fun r _ => mem_allRegs r) s.base⟩

/-- Settles O32: both write I alone, ADD the sum truncated to 16 bits. -/
theorem indexLoadAndAdd : Obligations.IndexLoadAndAdd := by
  refine ⟨fun x nnn s => ⟨?_, ?_⟩, decodesTo_withFields (.ldI 0), decodesTo_withFields (.addI 0)⟩
  · exact ⟨_, rfl, toNat_addrOperand nnn, (Frame.refl _ s).setI rfl _⟩
  · exact ⟨_, rfl, toNat_trunc16 _, (Frame.refl _ s).setI rfl _⟩

/-- Settles O33: five times a byte fits in I, and where the font is as reset left it a digit's glyph stands there. -/
theorem glyphAddressAndBytes : Obligations.GlyphAddressAndBytes := by
  refine ⟨fun x s => ?_, decodesTo_withFields (.ldF 0)⟩
  have haddr : (trunc16 ((s.reg x).toNat * 5)).toNat = 5 * (s.reg x).toNat := by
    have hlt := (s.reg x).isLt
    rw [toNat_trunc16]
    omega
  refine ⟨_, rfl, haddr, (Frame.refl _ s).setI rfl _, fun hdigit hfont k hk => ?_⟩
  rw [State.setI_mem, State.setI_i, haddr]
  calc s.mem.read (5 * (s.reg x).toNat + k)
      = State.reset.mem.read (5 * (s.reg x).toNat + k) := hfont _ (by omega)
    _ = glyphByte (s.reg x).toNat k := Memory.unlisted_glyph _ hdigit k hk

end Sys2Proof.Proofs
end

section
/-! PROOFS. The display family (44_display.md): drawing as a set of pixels that are flipped, which composes over disjoint sets; that the
columns and the rows of a sprite fall on different pixels; and from that CLS and DXYN. -/

namespace Sys2Proof.Claims

open Sys2Proof.Machine

/-- A frame that names the screen lets it be replaced. -/
theorem Frame.setFb {w : Writes} {s t : State} (h : Frame w s t) (hw : w.screen = true) (f : Framebuffer) : Frame w s (t.setFb f) :=
  { h with screen := fun hf => absurd hf (by simp [hw]) }

end Sys2Proof.Claims

namespace Sys2Proof.Machine

open Sys2Proof.Claims

/-! ### A set of pixels that is flipped -/

/-- `d.Flips hit e`: from canvas `d` to canvas `e` the pixels of the set `hit` are flipped, each once, and a collision is recorded where
one of them was on. -/
structure Canvas.Flips (hit : Nat → Nat → Prop) (d e : Canvas) : Prop where
  on_screen : ∀ {px py}, hit px py → px < 64 ∧ py < 32
  pixel_of_hit : ∀ {px py}, hit px py → e.fb.pixel px py = !d.fb.pixel px py
  pixel_of_miss : ∀ {px py}, px < 64 → py < 32 → ¬ hit px py → e.fb.pixel px py = d.fb.pixel px py
  collision_iff : e.collision = true ↔ d.collision = true ∨ ∃ px py, hit px py ∧ d.fb.pixel px py = true

section Flips

variable {hit P Q : Nat → Nat → Prop} {d e e' : Canvas}

theorem Canvas.Flips.of_empty (h : ∀ px py, ¬ hit px py) : Canvas.Flips hit d d where
  on_screen hp := absurd hp (h _ _)
  pixel_of_hit hp := absurd hp (h _ _)
  pixel_of_miss _ _ _ := rfl
  collision_iff := by simp [h]

/-- One flip, at the wrapped pixel. -/
theorem Canvas.flips_flip (d : Canvas) (x y : Nat) : Canvas.Flips (fun px py => px = x % 64 ∧ py = y % 32) d (d.flip x y) where
  on_screen := by
    rintro _ _ ⟨rfl, rfl⟩
    exact ⟨Nat.mod_lt _ (by decide), Nat.mod_lt _ (by decide)⟩
  pixel_of_hit := by
    rintro _ _ ⟨rfl, rfl⟩
    exact (d.fb.pixel_flip x y _ _).trans (if_pos (by simp))
  pixel_of_miss {px py} hx hy hmiss := by
    refine (d.fb.pixel_flip x y px py).trans (if_neg ?_)
    rwa [Nat.mod_eq_of_lt hx, Nat.mod_eq_of_lt hy]
  collision_iff := by simp [Canvas.flip, Framebuffer.pixel]

/-- Flipping one set and then another that is disjoint from it flips both: the second still finds its pixels as they were at first. -/
theorem Canvas.Flips.trans (hP : Canvas.Flips P d e) (hQ : Canvas.Flips Q e e') (disjoint : ∀ px py, P px py → ¬ Q px py)
    (union : ∀ px py, hit px py ↔ P px py ∨ Q px py) : Canvas.Flips hit d e' := by
  have kept : ∀ {px py}, Q px py → e.fb.pixel px py = d.fb.pixel px py := fun h =>
    hP.pixel_of_miss (hQ.on_screen h).1 (hQ.on_screen h).2 fun hp => disjoint _ _ hp h
  constructor
  case on_screen =>
    intro px py h
    exact ((union px py).mp h).elim hP.on_screen hQ.on_screen
  case pixel_of_hit =>
    intro px py h
    obtain hp | hq := (union px py).mp h
    · obtain ⟨hx, hy⟩ := hP.on_screen hp
      rw [hQ.pixel_of_miss hx hy (disjoint px py hp), hP.pixel_of_hit hp]
    · rw [hQ.pixel_of_hit hq, kept hq]
  case pixel_of_miss =>
    intro px py hx hy h
    obtain ⟨hp, hq⟩ := not_or.mp ((union px py).not.mp h)
    rw [hQ.pixel_of_miss hx hy hq, hP.pixel_of_miss hx hy hp]
  case collision_iff =>
    have second : (∃ px py, Q px py ∧ e.fb.pixel px py = true) ↔ ∃ px py, Q px py ∧ d.fb.pixel px py = true :=
      exists₂_congr fun px py => and_congr_right fun hq => by rw [kept hq]
    rw [hQ.collision_iff, hP.collision_iff, second, or_assoc]
    simp only [union, or_and_right, exists_or]

end Flips

/-! ### The pixels of a sprite -/

/-- The bit of column `c` is 1 and falls on pixel (px, py), for a row drawn from (ox, oy) on. -/
def ColumnCovers (ox oy : Nat) (row : Byte) (c px py : Nat) : Prop :=
  spriteBit row c = true ∧ px = (ox + c) % 64 ∧ py = oy % 32

/-- A 1 bit of one of the rows, drawn from (ox, oy) downwards, falls on pixel (px, py). -/
def RowsCover (ox oy : Nat) (rows : List Byte) (px py : Nat) : Prop :=
  ∃ r row, rows[r]? = some row ∧ ∃ c ∈ List.range 8, ColumnCovers ox (oy + r) row c px py

section Sprite

variable (ox oy : Nat) (row : Byte)

theorem Canvas.flips_column (d : Canvas) (c : Nat) :
    Canvas.Flips (ColumnCovers ox oy row c) d (if spriteBit row c then d.flip (ox + c) oy else d) := by
  unfold ColumnCovers
  cases spriteBit row c with
  | true => simpa using d.flips_flip (ox + c) oy
  | false => exact .of_empty (by simp)

/-- Different columns, fewer than 64 of them, fall on different pixels. -/
theorem Canvas.flips_columns (d : Canvas) (cs : List Nat) (distinct : cs.Nodup) (lt : ∀ c ∈ cs, c < 64) :
    Canvas.Flips (fun px py => ∃ c ∈ cs, ColumnCovers ox oy row c px py) d
      (cs.foldl (fun d c => if spriteBit row c then d.flip (ox + c) oy else d) d) := by
  induction cs generalizing d with
  | nil => exact .of_empty (by simp)
  | cons c cs ih =>
    obtain ⟨hnew, hcs⟩ := List.nodup_cons.mp distinct
    obtain ⟨hc, hlt⟩ := List.forall_mem_cons.mp lt
    refine (d.flips_column ox oy row c).trans (ih _ hcs hlt) ?_ fun px py => List.exists_mem_cons_iff ..
    rintro px py ⟨-, hx, -⟩ ⟨c', hc', -, hx', -⟩
    have hlt' := hlt c' hc'
    obtain rfl : c = c' := by omega
    exact hnew hc'

theorem Canvas.flips_drawRow (d : Canvas) :
    Canvas.Flips (fun px py => ∃ c ∈ List.range 8, ColumnCovers ox oy row c px py) d (d.drawRow ox oy row) :=
  d.flips_columns ox oy row (List.range 8) List.nodup_range (by decide)

/-- The first row, or one of those below it. -/
theorem rowsCover_cons (rows : List Byte) (px py : Nat) :
    RowsCover ox oy (row :: rows) px py ↔
      (∃ c ∈ List.range 8, ColumnCovers ox oy row c px py) ∨ RowsCover ox (oy + 1) rows px py := by
  rw [RowsCover, ← Nat.or_exists_add_one]
  simp [RowsCover, Nat.add_assoc, Nat.add_comm 1]

/-- Different rows, at most 32 of them, fall on different pixels. -/
theorem Canvas.flips_drawRows (d : Canvas) (rows : List Byte) (le : rows.length ≤ 32) :
    Canvas.Flips (RowsCover ox oy rows) d (d.drawRows ox oy rows) := by
  induction rows generalizing d oy with
  | nil => exact .of_empty (by simp [RowsCover])
  | cons row rows ih =>
    refine (d.flips_drawRow ox oy row).trans (ih (oy + 1) _ (Nat.le_of_succ_le le)) ?_ (rowsCover_cons ox oy row rows)
    rintro px py ⟨_, -, -, -, hy⟩ ⟨r, row', hr, _, -, -, -, hy'⟩
    obtain ⟨hlt, -⟩ := List.getElem?_eq_some_iff.mp hr
    rw [List.length_cons] at le
    omega

end Sprite

/-! ### DXYN's sprite -/

section Draw

variable (s : State) (x y : RegIdx) (n : Nibble)

/-- The rows that DXYN draws cover the pixels that the claims say its sprite hits. -/
theorem rowsCover_readBlock (px py : Nat) :
    RowsCover (s.reg x).toNat (s.reg y).toNat (s.mem.readBlock s.base n.toNat) px py ↔ SpriteHits s x y n px py := by
  constructor
  · rintro ⟨r, _, hr, c, hc, hbit, hx, hy⟩
    obtain ⟨hlt, rfl⟩ := List.getElem?_eq_some_iff.mp hr
    rw [Memory.getElem_readBlock] at hbit
    exact ⟨r, c, by simpa using hlt, List.mem_range.mp hc, hbit, hx, hy⟩
  · rintro ⟨r, c, hr, hc, hbit, hx, hy⟩
    have hrow : (s.mem.readBlock s.base n.toNat)[r]? = some (s.mem.read (s.i.toNat + r)) :=
      List.getElem?_eq_some_iff.mpr ⟨by simpa using hr, Memory.getElem_readBlock ..⟩
    exact ⟨r, _, hrow, c, List.mem_range.mpr hc, hbit, hx, hy⟩

theorem State.flips_drawn : Canvas.Flips (SpriteHits s x y n) ⟨s.fb, false⟩ (s.drawn x y n) := by
  have hcover : SpriteHits s x y n = RowsCover (s.reg x).toNat (s.reg y).toNat (s.mem.readBlock s.base n.toNat) :=
    funext₂ fun px py => propext (rowsCover_readBlock s x y n px py).symm
  have hlen : (s.mem.readBlock s.base n.toNat).length ≤ 32 := by
    rw [Memory.length_readBlock]
    omega
  rw [hcover]
  exact Canvas.flips_drawRows _ _ _ _ hlen

/-- With no row to read, or every row in range, DXYN draws and writes VF. -/
theorem exec_drw_of_inRange (h : n = 0 ∨ s.i.toNat + n.toNat ≤ 4096) :
    exec (.drw x y n) s =
      .next ((s.setFb (s.drawn x y n).fb).setReg vF (flagByte (s.drawn x y n).collision)) := by
  have hn : n.toNat = 0 ∨ s.i.toNat + n.toNat ≤ 4096 := h.imp_left (congrArg BitVec.toNat)
  rw [exec, execDrw, State.base, rangeFault_eq_none.mpr hn]
  rfl

end Draw

end Sys2Proof.Machine

namespace Sys2Proof.Proofs

open Sys2Proof Sys2Proof.Machine Sys2Proof.Claims

/-- Settles O39: the screen alone is replaced, by one with every pixel off. -/
theorem clearScreen : Obligations.ClearScreen :=
  ⟨fun s => ⟨_, rfl, fun px py _ _ => Framebuffer.pixel_clear px py, (Frame.refl _ s).setFb rfl _⟩, decodesTo_withFields .cls⟩

/-- Settles O40: the rows and columns of a sprite fall on different pixels, so each is flipped once, and is met by the collision test as
it was before. -/
theorem drawFlipsTheSpritePixels : Obligations.DrawFlipsTheSpritePixels := by
  refine ⟨fun x y n s h => ?_, decodesTo_withFields (.drw 0 0 0)⟩
  have hdraw := s.flips_drawn x y n
  have hVF : ((s.setFb (s.drawn x y n).fb).setReg vF (flagByte (s.drawn x y n).collision)).reg 0xF#4
      = flagByte (s.drawn x y n).collision := State.reg_setReg_self _ vF _
  have hcollision : (s.drawn x y n).collision = true ↔ ∃ px py, SpriteHits s x y n px py ∧ s.fb.pixel px py = true := by
    simpa using hdraw.collision_iff
  refine ⟨_, exec_drw_of_inRange s x y n h, fun px py hx hy => ⟨hdraw.pixel_of_hit, hdraw.pixel_of_miss hx hy⟩,
    fun hon => ?_, fun hoff => ?_, ?_⟩
  · rw [hVF, hcollision.mpr hon]
    rfl
  · rw [hVF, Bool.eq_false_iff.mpr (hcollision.not.mpr hoff)]
    rfl
  · exact ((Frame.refl _ s).setFb rfl _).setReg List.mem_cons_self _

end Sys2Proof.Proofs
end

section
/-! PROOFS. The keys and timers family (45_keys_timers.md): writing a timer stays within a frame that names it; the key skips with Vx
naming a key and not; and from that the two skips, the key wait and the timer access. -/

namespace Sys2Proof.Claims

open Sys2Proof.Machine

/-! ### Timer writes within a frame -/

section Frames

variable {w : Writes} {s t : State}

/-- A frame that names DT lets it be written. -/
theorem Frame.setDt (h : Frame w s t) (hw : w.dt = true) (b : Byte) : Frame w s (t.setDt b) :=
  { h with dt := fun hf => absurd hf (by simp [hw]) }

/-- A frame that names ST lets it be written. -/
theorem Frame.setSt (h : Frame w s t) (hw : w.st = true) (b : Byte) : Frame w s (t.setSt b) :=
  { h with st := fun hf => absurd hf (by simp [hw]) }

end Frames

end Sys2Proof.Claims

namespace Sys2Proof.Machine

section Rules

variable (s : State)

/-! ### The key skips, by the value of Vx -/

theorem exec_skp_of_lt (x : RegIdx) (h : (s.reg x).toNat < 16) :
    exec (.skp x) s = .next (s.skipIf s.keys[(s.reg x).toNat]) := by
  rw [exec, execSkp, s.keyOf_of_lt h]

theorem exec_sknp_of_lt (x : RegIdx) (h : (s.reg x).toNat < 16) :
    exec (.sknp x) s = .next (s.skipIf !s.keys[(s.reg x).toNat]) := by
  rw [exec, execSknp, s.keyOf_of_lt h]

theorem exec_skp_of_ge (x : RegIdx) (h : 16 ≤ (s.reg x).toNat) :
    exec (.skp x) s = .next (s.raise (.keyIndexOutOfRange (s.reg x))) := by
  rw [exec, execSkp, s.keyOf_of_ge h]

theorem exec_sknp_of_ge (x : RegIdx) (h : 16 ≤ (s.reg x).toNat) :
    exec (.sknp x) s = .next (s.raise (.keyIndexOutOfRange (s.reg x))) := by
  rw [exec, execSknp, s.keyOf_of_ge h]

/-- A skip on the opposite condition stays where the other is taken. -/
theorem State.skipIf_not_pc (c : Bool) : (s.skipIf !c).pc = if c = true then s.pc else s.pc + 2 := by
  cases c <;> rfl

/-! ### Stored values -/

/-- The tone is on while the sound timer is above 0 (R28). -/
theorem State.tone_eq_true_iff : s.tone = true ↔ 0 < s.st.toNat := by
  rw [State.tone, decide_eq_true_iff, Nat.pos_iff_ne_zero, ← BitVec.toNat_ne_iff_ne]
  rfl

end Rules

/-- The number of a key is not truncated when it is stored as a byte. -/
theorem toNat_trunc8_key {k : Nat} (h : k < 16) : (trunc8 k).toNat = k :=
  (toNat_trunc8 k).trans (Nat.mod_eq_of_lt (Nat.lt_trans h (by decide)))

end Sys2Proof.Machine

namespace Sys2Proof.Proofs

open Sys2Proof Sys2Proof.Machine Sys2Proof.Claims

/-- Settles O43: the least pressed key is found, and its number fits in a register; with none pressed none is found. -/
theorem keyWaitTakesTheLeastPressedKey : Obligations.KeyWaitTakesTheLeastPressedKey := by
  refine ⟨fun x s => ⟨fun k hk hpressed hleast => ?_, fun hreleased => ?_⟩, decodesTo_withFields (.ldVxK 0)⟩
  · have hsome : s.leastKey = some k := s.leastKey_eq_some.mpr ⟨hk, hpressed, hleast⟩
    refine ⟨_, exec_ldVxK_of_some s x hsome, ?_, frame_setReg s x _⟩
    rw [s.reg_setReg_self, toNat_trunc8_key hk]
  · have hnone : s.leastKey = none := s.leastKey_eq_none.mpr hreleased
    exact ⟨_, exec_ldVxK_of_none s x hnone, rfl, (Frame.refl _ s).setPc rfl _⟩

/-- Settles O41: Vx names a key, and each skip is taken on its level or on the opposite one. -/
theorem keySkips : Obligations.KeySkips := by
  refine ⟨fun x s h => ⟨?_, ?_⟩, decodesTo_withFields (.skp 0), decodesTo_withFields (.sknp 0)⟩
  · exact ⟨_, exec_skp_of_lt s x h, s.skipIf_pc _, (Frame.refl _ s).skipIf rfl _⟩
  · exact ⟨_, exec_sknp_of_lt s x h, s.skipIf_not_pc _, (Frame.refl _ s).skipIf rfl _⟩

/-- Settles O42: a value of 16 or more names no key. -/
theorem keyIndexFaults : Obligations.KeyIndexFaults := by
  intro x s h
  simp only [← s.raise_eq_faultedAt]
  exact ⟨exec_skp_of_ge s x h, exec_sknp_of_ge s x h⟩

/-- Settles O45: FX07 writes Vx alone and FX15 DT alone. -/
theorem delayTimerAccess : Obligations.DelayTimerAccess := by
  refine ⟨fun x s => ⟨?_, ?_⟩, decodesTo_withFields (.ldVxDt 0), decodesTo_withFields (.ldDtVx 0)⟩
  · exact ⟨_, rfl, s.reg_setReg_self x s.dt, frame_setReg s x _⟩
  · exact ⟨_, rfl, s.setDt_dt _, (Frame.refl _ s).setDt rfl _⟩

/-- Settles O46: FX18 writes ST alone, and the tone follows the value written. -/
theorem soundTimerAccess : Obligations.SoundTimerAccess := by
  refine ⟨fun x s => ?_, decodesTo_withFields (.ldStVx 0)⟩
  exact ⟨_, rfl, s.setSt_st _, (s.setSt (s.reg x)).tone_eq_true_iff, (Frame.refl _ s).setSt rfl _⟩

end Sys2Proof.Proofs
end

section
/-! PROOFS. The exceptions family (60_exceptions.md): which steps raise a fault, what a raised fault leaves as it was, and that both
marks are sticky; then the timer tick and the count down. -/

namespace Sys2Proof.Machine

open Sys2Proof.Claims

/-! ### When an instruction raises its own fault (R104) -/

section Instructions

variable {i : Instr} {s t : State}

/-- On its listed condition an instruction raises its fault. -/
theorem exec_of_faultsOn (h : FaultsOn i s) : ∃ cause, exec i s = .next (faultedAt s cause) := by
  cases i with
  | ret => exact ⟨_, (Proofs.stackFaults 0 s).1 h⟩
  | call nnn => exact ⟨_, (Proofs.stackFaults nnn s).2 h⟩
  | skp x => exact ⟨_, (Proofs.keyIndexFaults x s h).1⟩
  | sknp x => exact ⟨_, (Proofs.keyIndexFaults x s h).2⟩
  | drw x y n => exact ⟨_, checked_base_of_gt s .read _ (mt (BitVec.eq_of_toNat_eq (y := 0)) h.1) h.2⟩
  | ldB x => exact ⟨_, checked_base_of_gt s .write _ (by decide) h⟩
  | storeRegs x => exact ⟨_, checked_base_of_gt s .write _ (Nat.succ_ne_zero _) h⟩
  | loadRegs x => exact ⟨_, checked_base_of_gt s .read _ (Nat.succ_ne_zero _) h⟩
  | nop | cls | jp | seByte | sneByte | seReg | ldByte | addByte | ldReg | orReg | andReg | xorReg | addReg | subReg | shr | subnReg
  | shl | sneReg | ldI | jpV0 | rnd | ldVxDt | ldVxK | ldDtVx | ldStVx | addI | ldF => exact h.elim

/-- Off its listed condition an instruction answers a next state, and raises nothing. -/
theorem exec_of_not_faultsOn (h : ¬ FaultsOn i s) : ∃ t, exec i s = .next t ∧ t.fault = s.fault := by
  cases i with
  | ret =>
    obtain ⟨k, hk⟩ := Nat.exists_eq_succ_of_ne_zero h
    exact ⟨_, exec_ret_of_succ s (by omega) hk, rfl⟩
  | call nnn => exact ⟨_, exec_call_of_lt s nnn (lt_of_le_of_ne (Nat.le_of_lt_succ s.sp.isLt) h), rfl⟩
  | skp x => exact ⟨_, exec_skp_of_lt s x (Nat.lt_of_not_le h), s.skipIf_fault _⟩
  | sknp x => exact ⟨_, exec_sknp_of_lt s x (Nat.lt_of_not_le h), s.skipIf_fault _⟩
  | drw x y n =>
    have hrange : n = 0 ∨ s.i.toNat + n.toNat ≤ 4096 := (not_and_or.mp h).imp not_not.mp Nat.le_of_not_lt
    exact ⟨_, exec_drw_of_inRange s x y n hrange, rfl⟩
  | ldB x => exact ⟨_, checked_base_of_le s .write _ (Nat.le_of_not_lt h), rfl⟩
  | storeRegs x => exact ⟨_, checked_base_of_le s .write _ (Nat.le_of_not_lt h), rfl⟩
  | loadRegs x => exact ⟨_, checked_base_of_le s .read _ (Nat.le_of_not_lt h), rfl⟩
  | seByte | sneByte | seReg | sneReg => exact ⟨_, rfl, s.skipIf_fault _⟩
  | ldVxK x =>
    cases hkey : s.leastKey with
    | some k => exact ⟨_, exec_ldVxK_of_some s x hkey, rfl⟩
    | none => exact ⟨_, exec_ldVxK_of_none s x hkey, rfl⟩
  | nop | cls | jp | ldByte | addByte | ldReg | orReg | andReg | xorReg | addReg | subReg | shr | subnReg | shl | ldI | jpV0 | rnd
  | ldVxDt | ldDtVx | ldStVx | addI | ldF => exact ⟨_, rfl, rfl⟩

/-- An instruction raises a fault or leaves the fault mark as it was. -/
theorem fault_of_exec (h : exec i s = .next t) : (∃ cause, t = s.raise cause) ∨ t.fault = s.fault := by
  cases effect_of_exec h with
  | raise cause => exact .inl ⟨cause, rfl⟩
  | setPc | setReg | setWithFlag | setRegBlock | setI | pop | push | clear | draw | setMem | setDt | setSt | random => exact .inr rfl

end Instructions

/-! ### What a cycle may do to the marks -/

section Cycles

variable {s t : State}

/-- A fault of an instruction that is executing undoes the fetch's advance. -/
theorem State.raise_advance (s : State) (cause : FaultCause) : s.advance.raise cause = s.raiseAt s.pc cause := by
  rw [State.raise, State.advance_pc, add_two_sub_two]
  rfl

/-- One cycle raises a fault at the PC it began with or leaves the fault mark as it was. -/
theorem State.fault_of_cycle (h : s.cycle = .next t) : (∃ cause, t = s.raiseAt s.pc cause) ∨ t.fault = s.fault := by
  obtain ⟨cause, -, e⟩ | ⟨w, _, -, -, e⟩ | ⟨w, i, -, -, e⟩ := s.cycle_cases <;> rw [e] at h
  · exact .inl ⟨cause, (Host.Outcome.next.inj h).symm⟩
  · exact .inl ⟨_, (Host.Outcome.next.inj h).symm.trans (s.raise_advance _)⟩
  · refine (fault_of_exec h).imp_left fun ⟨cause, ht⟩ => ?_
    exact ⟨cause, ht.trans (s.raise_advance cause)⟩

/-- No cycle refuses: the mark is the host operations' own (R109). -/
theorem State.refused_of_cycle (h : s.cycle = .next t) : t.refused = s.refused := by
  obtain ⟨cause, -, e⟩ | ⟨w, _, -, -, e⟩ | ⟨w, i, -, -, e⟩ := s.cycle_cases <;> rw [e] at h
  · exact Host.Outcome.next.inj h ▸ rfl
  · exact Host.Outcome.next.inj h ▸ rfl
  · obtain ⟨-, -, -, -, -, -, -, -, hrefused, -⟩ := Proofs.stateChangesOnlyByTheNamedInstructions i s.advance t h
    exact hrefused

end Cycles

/-! ### What a host operation may do to the marks -/

/-- The host operations whose precondition fails (R109). -/
def HostOp.Broken : HostOp → Prop
  | .load bytes => 3584 < bytes.length
  | .setKey k _ => 16 ≤ k
  | .reset | .tick | .tickTimers | .getDisplay => False

section HostOps

variable {op : HostOp} {s t : State}

@[simp] theorem State.load_fault (s : State) (bytes : List Byte) : (s.load bytes).fault = s.fault := by
  unfold State.load
  split <;> rfl

@[simp] theorem State.setKey_fault (s : State) (k : Nat) (pressed : Bool) : (s.setKey k pressed).fault = s.fault := by
  unfold State.setKey
  split <;> rfl

theorem State.load_refused (s : State) (bytes : List Byte) :
    (s.load bytes).refused = true ↔ s.refused = true ∨ 3584 < bytes.length := by
  by_cases h : bytes.length ≤ 3584
  · simp [s.load_of_le h, Nat.not_lt.mpr h]
  · simp [s.load_of_gt (Nat.lt_of_not_le h), Nat.lt_of_not_le h]

theorem State.setKey_refused (s : State) (k : Nat) (pressed : Bool) :
    (s.setKey k pressed).refused = true ↔ s.refused = true ∨ 16 ≤ k := by
  by_cases h : k < 16
  · simp [s.setKey_of_lt pressed h, Nat.not_le.mpr h]
  · simp [s.setKey_of_ge pressed (Nat.le_of_not_lt h), Nat.le_of_not_lt h]

/-- What a guarded operation answers, where it answers a next state. -/
theorem State.eq_of_ifRunning_next {u : State} (h : s.ifRunning (.next u) = .next t) : u = t :=
  Host.Outcome.next.inj (s.ifRunning_eq_next.mp h).2

/-- On a faulted state every operation but `get_display` is the stop (R105). -/
theorem perform_of_faulted {r : FaultRecord} (hs : s.fault = some r) (hop : op ≠ .getDisplay) :
    perform op s = .fault (.stuck r) := by
  cases op with
  | reset | load | setKey | tick | tickTimers => exact s.ifRunning_of_some hs
  | getDisplay => exact absurd rfl hop

/-- No operation but `tick` raises a fault. -/
theorem fault_of_perform (hop : op ≠ .tick) (hs : s.fault = none) (h : perform op s = .next t) : t.fault = none := by
  cases op with
  | reset => exact State.eq_of_ifRunning_next h ▸ rfl
  | load bytes => exact State.eq_of_ifRunning_next h ▸ (s.load_fault bytes).trans hs
  | setKey k pressed => exact State.eq_of_ifRunning_next h ▸ (s.setKey_fault k pressed).trans hs
  | tick => exact absurd rfl hop
  | tickTimers => exact State.eq_of_ifRunning_next h ▸ hs
  | getDisplay => exact Host.Outcome.next.inj h ▸ hs

/-- A refusal is what a broken precondition adds to the mark. -/
theorem refused_of_perform (h : perform op s = .next t) : t.refused = true ↔ s.refused = true ∨ op.Broken := by
  cases op with
  | reset => exact State.eq_of_ifRunning_next h ▸ (iff_of_eq (or_false _)).symm
  | load bytes => exact State.eq_of_ifRunning_next h ▸ s.load_refused bytes
  | setKey k pressed => exact State.eq_of_ifRunning_next h ▸ s.setKey_refused k pressed
  | tick => rw [State.refused_of_cycle ((tick_eq_next s).mp h).2, HostOp.Broken, or_false]
  | tickTimers => exact State.eq_of_ifRunning_next h ▸ (iff_of_eq (or_false _)).symm
  | getDisplay => exact Host.Outcome.next.inj h ▸ (iff_of_eq (or_false _)).symm

/-- A step that raises a fault is a tick. -/
theorem tickIsNext_of_raised (hs : s.fault = none) (h : step s = .next t) (ht : t.fault ≠ none) : TickIsNext s := by
  cases hp : s.pending with
  | nil => exact .inl hp
  | cons op rest =>
    by_cases hop : op = .tick
    · exact .inr (by rw [hp, hop]; rfl)
    · let u : State := { s with pending := rest }
      exact absurd (fault_of_perform (s := u) hop hs ((step_of_pending s hp).symm.trans h)) ht

end HostOps

/-! ### Timer ticks -/

/-- One timer tick, with the difference of naturals, which is 0 at 0 (R112). -/
@[simp] theorem toNat_countDown (b : Byte) : (countDown b).toNat = b.toNat - 1 := by
  unfold countDown
  split
  · subst b; rfl
  · bv_omega

theorem State.perform_tickTimers (s : State) (hs : s.fault = none) : perform .tickTimers s = .next s.tickTimers :=
  s.ifRunning_of_none hs

/-- Both timers, and nothing else. -/
theorem State.frame_tickTimers (s : State) : Frame { dt := true, st := true } s s.tickTimers :=
  ((Frame.refl _ s).setDt rfl (countDown s.dt)).setSt rfl (countDown s.st)

/-! ### Safe runs -/

section SafeRuns

variable {k : Nat} {s t : State}

theorem safeRun_zero : SafeRun 0 s ↔ s.Normal :=
  ⟨fun ⟨_, h, ht⟩ => Host.Outcome.next.inj h ▸ ht, fun hs => ⟨s, rfl, hs⟩⟩

theorem safeRun_succ : SafeRun (k + 1) s ↔ ∃ u, step s = .next u ∧ SafeRun k u := by
  constructor
  · rintro ⟨t, hrun, ht⟩
    obtain ⟨u, hu, hrest⟩ := (run_succ_eq_next s).mp hrun
    exact ⟨u, hu, t, hrest, ht⟩
  · rintro ⟨u, hu, t, hrest, ht⟩
    exact ⟨t, (run_succ_eq_next s).mpr ⟨u, hu, hrest⟩, ht⟩

end SafeRuns

end Sys2Proof.Machine

namespace Sys2Proof.Proofs

open Sys2Proof Sys2Proof.Machine Sys2Proof.Claims

/-- Settles O7: on its condition an instruction raises its fault, and off it the mark stays as it was. -/
theorem instructionFaultsExactlyWhenListed : Obligations.InstructionFaultsExactlyWhenListed := by
  intro i s
  by_cases h : FaultsOn i s
  · obtain ⟨cause, e⟩ := exec_of_faultsOn h
    exact ⟨_, e, fun _ => iff_of_true (Option.some_ne_none _) h, fun _ => ⟨cause, rfl⟩⟩
  · obtain ⟨t, e, ht⟩ := exec_of_not_faultsOn h
    exact ⟨t, e, fun hs => iff_of_false (not_not_intro (ht.trans hs)) h, fun hf => absurd hf h⟩

/-- Settles O5: the next operation is guarded against a faulted state, unless it is `get_display`; an exhausted schedule gives a tick,
which is guarded too. -/
theorem faultedStateHasNoStep : Obligations.FaultedStateHasNoStep := by
  intro s r hs
  obtain ⟨hop, htick⟩ := stepPerformsTheNextOperation s
  cases hp : s.pending with
  | nil => exact ⟨fun _ => (htick hp).trans (perform_of_faulted hs (by decide)), fun h => by cases h⟩
  | cons op rest =>
    refine ⟨fun hne => ?_, fun heq => ?_⟩
    · exact (hop op rest hp).trans (perform_of_faulted hs fun e => hne (congrArg some e))
    · obtain rfl : op = .getDisplay := Option.some.inj heq
      exact hop _ rest hp

/-- Settles O6: only a tick raises a fault, and its cycle leaves nothing written but the record, with the PC it began with. -/
theorem raisedFaultKeepsEveryValue : Obligations.RaisedFaultKeepsEveryValue := by
  intro s t r hs h ht
  have htick : TickIsNext s := tickIsNext_of_raised hs h (ht ▸ Option.some_ne_none r)
  let u : State := { s with pending := s.pending.tail }
  have hcycle : u.cycle = .next t := ((tick_eq_next u).mp ((step_of_tick s htick).symm.trans h)).2
  obtain ⟨cause, rfl⟩ | hkept := u.fault_of_cycle hcycle
  · obtain rfl : ⟨s.pc, cause⟩ = r := Option.some.inj ht
    exact ⟨rfl, htick, rfl⟩
  · cases ht.symm.trans (hkept.trans hs)

/-- Settles O54: a tick keeps the mark, and the other operations set it exactly where their precondition fails. -/
theorem refusalOnlyByABrokenPrecondition : Obligations.RefusalOnlyByABrokenPrecondition := by
  intro s t h
  cases hp : s.pending with
  | nil =>
    have htick : perform .tick s = .next t := ((stepPerformsTheNextOperation s).2 hp).symm.trans h
    simpa [HostOp.Broken] using refused_of_perform htick
  | cons op rest =>
    rw [refused_of_perform ((step_of_pending s hp).symm.trans h)]
    cases op <;> simp [HostOp.Broken]

/-- Both marks are sticky (R105, R109): a faulted state has no step but `get_display`, which keeps the fault, and no step clears a
refusal. -/
theorem normal_of_step {s t : State} (h : step s = .next t) (ht : t.Normal) : s.Normal := by
  obtain ⟨hfault, hrefused⟩ := ht
  constructor
  · cases hs : s.fault with
    | none => rfl
    | some r =>
      obtain ⟨hstuck, hdisplay⟩ := faultedStateHasNoStep s r hs
      by_cases hop : s.pending.head? = some .getDisplay
      · obtain rfl := Host.Outcome.next.inj ((hdisplay hop).symm.trans h)
        exact hs.symm.trans hfault
      · cases (hstuck hop).symm.trans h
  · by_contra hs
    have hset : t.refused = true := (refusalOnlyByABrokenPrecondition s t h).mpr (.inl (Bool.eq_true_of_not_eq_false hs))
    cases hrefused.symm.trans hset

theorem normal_of_safeRun {k : Nat} {s : State} (h : SafeRun k s) : s.Normal := by
  induction k generalizing s with
  | zero => exact safeRun_zero.mp h
  | succ k ih =>
    obtain ⟨u, hu, hrest⟩ := safeRun_succ.mp h
    exact normal_of_step hu (ih hrest)

/-- Settles O10: the run of `j` steps is the beginning of the run of `k`, and the state it ends at begins a safe run, so it is normal. -/
theorem safeRunIsSafeAtEveryPrefix : Obligations.SafeRunIsSafeAtEveryPrefix := by
  intro j
  induction j with
  | zero => exact fun _ _ _ h => safeRun_zero.mpr (normal_of_safeRun h)
  | succ j ih =>
    intro k s hjk h
    obtain ⟨k, rfl⟩ := Nat.exists_eq_succ_of_ne_zero (Nat.ne_of_gt (Nat.zero_lt_of_lt hjk))
    obtain ⟨u, hu, hrest⟩ := safeRun_succ.mp h
    exact safeRun_succ.mpr ⟨u, hu, ih k u (Nat.le_of_succ_le_succ hjk) hrest⟩

/-- Settles O48: the guard passes a running state and stops a faulted one. -/
theorem timerTick : Obligations.TimerTick := fun s =>
  ⟨fun hs => ⟨s.tickTimers, s.perform_tickTimers hs, toNat_countDown s.dt, toNat_countDown s.st, s.frame_tickTimers⟩,
    fun _ hs => perform_of_faulted hs (by decide)⟩

/-- Settles O49, by induction on the number of ticks: the first one lowers each timer by 1, and the rest start from there. -/
theorem timersCountDownToZero : Obligations.TimersCountDownToZero := by
  intro n
  induction n with
  | zero => exact fun s rest hs hp => ⟨s, rfl, rfl, rfl, hp, rfl, rfl, rfl, rfl, rfl, rfl, hs⟩
  | succ n ih =>
    intro s rest hs hp
    let u : State := { s with pending := List.replicate n .tickTimers ++ rest }
    have hstep : step s = .next u.tickTimers := (step_of_pending s hp).trans (u.perform_tickTimers hs)
    obtain ⟨t, hrun, hdt, hst, hkept⟩ := ih u.tickTimers rest hs rfl
    refine ⟨t, (run_succ_of_next s hstep).trans hrun, ?_, ?_, hkept⟩
    · rw [hdt, State.tickTimers_dt, toNat_countDown, Nat.sub_sub, Nat.add_comm]
    · rw [hst, State.tickTimers_st, toNat_countDown, Nat.sub_sub, Nat.add_comm]

end Sys2Proof.Proofs
end

section
/-! PROOFS. The reset and load family (70_reset_and_hazards.md): the two host operations that set up a run. -/

namespace Sys2Proof.Machine

variable {s : State}

theorem State.perform_load (hs : s.fault = none) (bytes : List Byte) : perform (.load bytes) s = .next (s.load bytes) :=
  s.ifRunning_of_none hs

theorem State.perform_reset (hs : s.fault = none) : perform .reset s = .next s.hostReset :=
  s.ifRunning_of_none hs

end Sys2Proof.Machine

namespace Sys2Proof.Proofs

open Sys2Proof Sys2Proof.Machine

/-- Settles O51: a program that fits is one block write at 0x200, which ends within memory, and a longer one is refused. -/
theorem loadCopiesTheProgram : Obligations.LoadCopiesTheProgram := by
  intro s b hs hm
  have hrun : perform (.load b) s = .next (s.load b) := State.perform_load hs b
  constructor
  · intro hfit
    have hend : 0x200 + b.length ≤ 4096 := Nat.add_le_add_left hfit 0x200
    refine ⟨s.setMem (s.mem.writeBlock 0x200 b), ?_, ?_, ?_, ?_, rfl⟩
    · exact hrun.trans (congrArg _ (s.load_of_le hfit))
    · exact fun k hk => Memory.read_writeBlock_add hm b 0x200 hk
    · exact fun a ha => Memory.read_writeBlock_outside hm.1 ha
    · exact Memory.wf_writeBlock b hm 0x200 hend
  · intro hlong
    exact hrun.trans (congrArg _ (s.load_of_gt hlong))

/-- Settles O52: only `refused` and the model's own two fields survive the reset, so with their initial values put back nothing of the
old state is left. -/
theorem hostResetGivesTheNewState : Obligations.HostResetGivesTheNewState :=
  fun s hs => ⟨s.hostReset, State.perform_reset hs, rfl, rfl, rfl, rfl⟩

end Sys2Proof.Proofs
end
